-- ==== Sys2Proof/Word.lean ====
section
/-! DEFINITION. The word types of the CHIP-8 core: what spec/10_state.md and spec/30_encoding.md treat as bits. -/
namespace Sys2Proof

/-- A hexadecimal digit of an instruction word: a register index or the field `n` (spec/30_encoding.md R51). -/
abbrev Nibble := BitVec 4

/-- A register, a timer, a byte of memory, the field `nn` (spec/10_state.md R10, R16, R18). -/
abbrev Byte := BitVec 8

/-- The field `nnn`: a 12-bit address or literal (spec/30_encoding.md R51). -/
abbrev Addr12 := BitVec 12

/-- `pc`, `I`, a stack slot, an instruction word, the key snapshot (spec/10_state.md R12, R13, R14, R21). -/
abbrev Word := BitVec 16

end Sys2Proof
end

