-- ==== Sys2Proof/Machine/Flags.lean ====
section
/-! DEFINITION. The flag computations (spec/10_state.md R11): what the seven flag-writing instructions put in `VF`. -/
namespace Sys2Proof.Machine

/-- A flag as the register value 0 or 1 (R11). -/
def flagByte (c : Bool) : Byte := if c then 1 else 0

/-- Carry of `ADD`: the unwrapped sum exceeds 255 (spec/41_alu.md R96). -/
def carry (a b : Byte) : Byte := flagByte (decide (a.toNat + b.toNat > 255))

/-- Borrow of `a - b`: 1 when a borrow OCCURS (spec/41_alu.md R97, R99, R102). -/
def borrow (a b : Byte) : Byte := flagByte (decide (a.toNat < b.toNat))

/-- The bit `SHR` shifts out (spec/41_alu.md R98). -/
def lowBit (a : Byte) : Byte := flagByte (a.getLsbD 0)

/-- The bit `SHL` shifts out, as 0 or 1 (spec/41_alu.md R100). -/
def highBit (a : Byte) : Byte := flagByte (a.getLsbD 7)

/-- Overflow of `ADDA`: the unwrapped sum exceeds 0xFFF (spec/42_index_memory.md R111). -/
def indexOverflow (i : Word) (v : Byte) : Byte := flagByte (decide (i.toNat + v.toNat > 0xFFF))

end Sys2Proof.Machine
end

