-- ==== Sys2Proof/Syntax.lean ====
section
/-! DEFINITION. The 34 instructions of spec/30_encoding.md R54, one constructor per row of spec/opcode_table.json,
in the table's order. A digit the row ignores (R59) is kept as the operand the docstring calls ignored: it takes no
part in what the instruction does, and it keeps every bit of the word (a diagnostic reports the whole word, R140).
Every value of every field is legal (R53), so every term is an instruction the machine runs. -/
namespace Sys2Proof

inductive Instr where
  /-- `0X00`: clear the framebuffer. `x` ignored. R120 -/
  | cls (x : Nibble)
  /-- `0X0E`: return. `x` ignored. R72 -/
  | ret (x : Nibble)
  /-- `1NNN`. R73 -/
  | jp (nnn : Addr12)
  /-- `2NNN`. R74 -/
  | call (nnn : Addr12)
  /-- `3XNN`. R75 -/
  | sei (x : Nibble) (nn : Byte)
  /-- `4XNN`. R76 -/
  | snei (x : Nibble) (nn : Byte)
  /-- `5XYN`, `n` ignored. R77 -/
  | se (x y n : Nibble)
  /-- `6XNN`. R90 -/
  | ldi (x : Nibble) (nn : Byte)
  /-- `7XNN`. R91 -/
  | addi (x : Nibble) (nn : Byte)
  /-- `8XY0`. R92 -/
  | mov (x y : Nibble)
  /-- `8XY1`. R93 -/
  | or (x y : Nibble)
  /-- `8XY2`. R94 -/
  | and (x y : Nibble)
  /-- `8XY3`. R95 -/
  | xor (x y : Nibble)
  /-- `8XY4`. R96 -/
  | add (x y : Nibble)
  /-- `8XY5`. R97 -/
  | sub (x y : Nibble)
  /-- `8XY6`, `y` ignored. R98 -/
  | shr (x y : Nibble)
  /-- `8XY7`. R99 -/
  | subn (x y : Nibble)
  /-- `8XYE`, `y` ignored. R100 -/
  | shl (x y : Nibble)
  /-- `9XYN`, `n` ignored. R78 -/
  | sne (x y n : Nibble)
  /-- `ANNN`. R110 -/
  | lda (nnn : Addr12)
  /-- `BNNN`. R79 -/
  | jpv (nnn : Addr12)
  /-- `CXNN`. R101 -/
  | rnd (x : Nibble) (nn : Byte)
  /-- `DXYN`. R121 -/
  | drw (x y n : Nibble)
  /-- `EX9E`. R130 -/
  | skp (x : Nibble)
  /-- `EXA1`. R131 -/
  | sknp (x : Nibble)
  /-- `FX07`. R132 -/
  | gdt (x : Nibble)
  /-- `FX0A`. R133 -/
  | wkey (x : Nibble)
  /-- `FX15`. R134 -/
  | sdt (x : Nibble)
  /-- `FX18`. R135 -/
  | sst (x : Nibble)
  /-- `FX1E`. R111 -/
  | adda (x : Nibble)
  /-- `FX29`. R112 -/
  | fnt (x : Nibble)
  /-- `FX33`. R113 -/
  | bcd (x : Nibble)
  /-- `FX55`. R114 -/
  | stm (x : Nibble)
  /-- `FX65`. R115 -/
  | ldm (x : Nibble)
  deriving DecidableEq, Repr

end Sys2Proof
end

