-- ==== Sys2Proof/WellFormed.lean ====
section
/-! DEFINITION. Well-formedness. The types of Instr's operands are the widths of spec/30_encoding.md R51, and R53 makes
every value of every field legal, so every term of Instr is an instruction and the machine runs it. What is left to
check is the form the assembler of R62 emits: 0 in every don't-care digit (R59). A word with another value there
decodes to a term this check refuses and runs all the same. -/
namespace Sys2Proof

/-- The instruction is in the assembler's form: every don't-care digit is 0 (spec/30_encoding.md R59, R62). -/
def Instr.canonical : Instr → Bool
  | .cls x => x == 0
  | .ret x => x == 0
  | .jp _ => true
  | .call _ => true
  | .sei _ _ => true
  | .snei _ _ => true
  | .se _ _ n => n == 0
  | .ldi _ _ => true
  | .addi _ _ => true
  | .mov _ _ => true
  | .or _ _ => true
  | .and _ _ => true
  | .xor _ _ => true
  | .add _ _ => true
  | .sub _ _ => true
  | .shr _ y => y == 0
  | .subn _ _ => true
  | .shl _ y => y == 0
  | .sne _ _ n => n == 0
  | .lda _ => true
  | .jpv _ => true
  | .rnd _ _ => true
  | .drw _ _ _ => true
  | .skp _ => true
  | .sknp _ => true
  | .gdt _ => true
  | .wkey _ => true
  | .sdt _ => true
  | .sst _ => true
  | .adda _ => true
  | .fnt _ => true
  | .bcd _ => true
  | .stm _ => true
  | .ldm _ => true

end Sys2Proof
end

