-- ==== Sys2Proof/Decode.lean ====
section
/-! DEFINITION. Decoding and encoding (spec/30_encoding.md): the fields R51, the decoder R54 to R60, the encoder R54,
and the opcode map R54 itself as a table of masks, against which the decoder is stated to agree. -/
namespace Sys2Proof

/-- The word whose four hexadecimal digits are given, most significant first. -/
def nibbles (a b c d : Nibble) : Word := a ++ b ++ c ++ d

/-- The word of format A (R52): the family digit and a 12-bit field. -/
def wordA (op : Nibble) (nnn : Addr12) : Word := op ++ nnn

/-- The word of format XI (R52): the family digit, a register index and an 8-bit field. -/
def wordXI (op x : Nibble) (nn : Byte) : Word := op ++ x ++ nn

/-- `w[15:12]` (R51). -/
def fieldOp (w : Word) : Nibble := w.extractLsb' 12 4
/-- `w[11:8]` (R51). -/
def fieldX (w : Word) : Nibble := w.extractLsb' 8 4
/-- `w[7:4]` (R51). -/
def fieldY (w : Word) : Nibble := w.extractLsb' 4 4
/-- `w[3:0]` (R51). -/
def fieldN (w : Word) : Nibble := w.extractLsb' 0 4
/-- `w[7:0]` (R51). -/
def fieldNN (w : Word) : Byte := w.extractLsb' 0 8
/-- `w[11:0]` (R51). -/
def fieldNNN (w : Word) : Addr12 := w.extractLsb' 0 12

/-- The high-order byte of a word, the one at the lower address (spec/20_memory.md R34). -/
def highByte (w : Word) : Byte := w.extractLsb' 8 8
/-- The low-order byte of a word. -/
def lowByte (w : Word) : Byte := w.extractLsb' 0 8
/-- The big-endian word `{hi, lo}` (spec/20_memory.md R34). -/
def wordOfBytes (hi lo : Byte) : Word := hi ++ lo

/-- Why bytes are no instruction. -/
inductive Reject where
  /-- The word satisfies no row of R54 (R60). The step does not stop: it raises `UnknownInstruction`. -/
  | unknownWord (w : Word)
  /-- Fewer than two bytes were given. Never met in a step, whose fetch always reads two (R70). -/
  | truncated
  deriving DecidableEq, Repr

/-- Family 0x0, decoded on `nn` (R55, D5). UNVERIFIED, unsafe: log entry 8. -/
def decode0 (w : Word) : Except Reject Instr :=
  match (fieldNN w).toNat with
  | 0x00 => .ok (.cls (fieldX w))
  | 0x0E => .ok (.ret (fieldX w))
  | _ => .error (.unknownWord w)

/-- Family 0x8, decoded on `n` (R56). -/
def decode8 (w : Word) : Except Reject Instr :=
  match (fieldN w).toNat with
  | 0x0 => .ok (.mov (fieldX w) (fieldY w))
  | 0x1 => .ok (.or (fieldX w) (fieldY w))
  | 0x2 => .ok (.and (fieldX w) (fieldY w))
  | 0x3 => .ok (.xor (fieldX w) (fieldY w))
  | 0x4 => .ok (.add (fieldX w) (fieldY w))
  | 0x5 => .ok (.sub (fieldX w) (fieldY w))
  | 0x6 => .ok (.shr (fieldX w) (fieldY w))
  | 0x7 => .ok (.subn (fieldX w) (fieldY w))
  | 0xE => .ok (.shl (fieldX w) (fieldY w))
  | _ => .error (.unknownWord w)

/-- Family 0xE, decoded on `nn` (R57). -/
def decodeE (w : Word) : Except Reject Instr :=
  match (fieldNN w).toNat with
  | 0x9E => .ok (.skp (fieldX w))
  | 0xA1 => .ok (.sknp (fieldX w))
  | _ => .error (.unknownWord w)

/-- Family 0xF, decoded on `nn` (R58). -/
def decodeF (w : Word) : Except Reject Instr :=
  match (fieldNN w).toNat with
  | 0x07 => .ok (.gdt (fieldX w))
  | 0x0A => .ok (.wkey (fieldX w))
  | 0x15 => .ok (.sdt (fieldX w))
  | 0x18 => .ok (.sst (fieldX w))
  | 0x1E => .ok (.adda (fieldX w))
  | 0x29 => .ok (.fnt (fieldX w))
  | 0x33 => .ok (.bcd (fieldX w))
  | 0x55 => .ok (.stm (fieldX w))
  | 0x65 => .ok (.ldm (fieldX w))
  | _ => .error (.unknownWord w)

/-- The instruction of a word, or the rejection of an unknown one (R54, R60). The first match is on a 4-bit value:
its last arm, which no word reaches, rejects too. -/
def decodeWord (w : Word) : Except Reject Instr :=
  match (fieldOp w).toNat with
  | 0x0 => decode0 w
  | 0x1 => .ok (.jp (fieldNNN w))
  | 0x2 => .ok (.call (fieldNNN w))
  | 0x3 => .ok (.sei (fieldX w) (fieldNN w))
  | 0x4 => .ok (.snei (fieldX w) (fieldNN w))
  | 0x5 => .ok (.se (fieldX w) (fieldY w) (fieldN w))
  | 0x6 => .ok (.ldi (fieldX w) (fieldNN w))
  | 0x7 => .ok (.addi (fieldX w) (fieldNN w))
  | 0x8 => decode8 w
  | 0x9 => .ok (.sne (fieldX w) (fieldY w) (fieldN w))
  | 0xA => .ok (.lda (fieldNNN w))
  | 0xB => .ok (.jpv (fieldNNN w))
  | 0xC => .ok (.rnd (fieldX w) (fieldNN w))
  | 0xD => .ok (.drw (fieldX w) (fieldY w) (fieldN w))
  | 0xE => decodeE w
  | 0xF => decodeF w
  | _ => .error (.unknownWord w)

/-- Total on any bytes: the instruction at the head of the list and the bytes after it (R50: always two bytes). -/
def decode : List Byte → Except Reject (Instr × List Byte)
  | hi :: lo :: rest =>
    match decodeWord (wordOfBytes hi lo) with
    | .ok i => .ok (i, rest)
    | .error e => .error e
  | _ => .error .truncated

/-- The word of an instruction (R54), its don't-care digits as the instruction holds them. -/
def encode : Instr → Word
  | .cls x => nibbles 0x0 x 0x0 0x0
  | .ret x => nibbles 0x0 x 0x0 0xE
  | .jp nnn => wordA 0x1 nnn
  | .call nnn => wordA 0x2 nnn
  | .sei x nn => wordXI 0x3 x nn
  | .snei x nn => wordXI 0x4 x nn
  | .se x y n => nibbles 0x5 x y n
  | .ldi x nn => wordXI 0x6 x nn
  | .addi x nn => wordXI 0x7 x nn
  | .mov x y => nibbles 0x8 x y 0x0
  | .or x y => nibbles 0x8 x y 0x1
  | .and x y => nibbles 0x8 x y 0x2
  | .xor x y => nibbles 0x8 x y 0x3
  | .add x y => nibbles 0x8 x y 0x4
  | .sub x y => nibbles 0x8 x y 0x5
  | .shr x y => nibbles 0x8 x y 0x6
  | .subn x y => nibbles 0x8 x y 0x7
  | .shl x y => nibbles 0x8 x y 0xE
  | .sne x y n => nibbles 0x9 x y n
  | .lda nnn => wordA 0xA nnn
  | .jpv nnn => wordA 0xB nnn
  | .rnd x nn => wordXI 0xC x nn
  | .drw x y n => nibbles 0xD x y n
  | .skp x => nibbles 0xE x 0x9 0xE
  | .sknp x => nibbles 0xE x 0xA 0x1
  | .gdt x => nibbles 0xF x 0x0 0x7
  | .wkey x => nibbles 0xF x 0x0 0xA
  | .sdt x => nibbles 0xF x 0x1 0x5
  | .sst x => nibbles 0xF x 0x1 0x8
  | .adda x => nibbles 0xF x 0x1 0xE
  | .fnt x => nibbles 0xF x 0x2 0x9
  | .bcd x => nibbles 0xF x 0x3 0x3
  | .stm x => nibbles 0xF x 0x5 0x5
  | .ldm x => nibbles 0xF x 0x6 0x5

/-- The two bytes of an instruction as memory holds them (R50). -/
def encodeBytes (i : Instr) : List Byte := [highByte (encode i), lowByte (encode i)]

/-- The mnemonic of the instruction's row of R54. -/
def mnemonic : Instr → String
  | .cls _ => "CLS"
  | .ret _ => "RET"
  | .jp _ => "JP"
  | .call _ => "CALL"
  | .sei _ _ => "SEI"
  | .snei _ _ => "SNEI"
  | .se _ _ _ => "SE"
  | .ldi _ _ => "LDI"
  | .addi _ _ => "ADDI"
  | .mov _ _ => "MOV"
  | .or _ _ => "OR"
  | .and _ _ => "AND"
  | .xor _ _ => "XOR"
  | .add _ _ => "ADD"
  | .sub _ _ => "SUB"
  | .shr _ _ => "SHR"
  | .subn _ _ => "SUBN"
  | .shl _ _ => "SHL"
  | .sne _ _ _ => "SNE"
  | .lda _ => "LDA"
  | .jpv _ => "JPV"
  | .rnd _ _ => "RND"
  | .drw _ _ _ => "DRW"
  | .skp _ => "SKP"
  | .sknp _ => "SKNP"
  | .gdt _ => "GDT"
  | .wkey _ => "WKEY"
  | .sdt _ => "SDT"
  | .sst _ => "SST"
  | .adda _ => "ADDA"
  | .fnt _ => "FNT"
  | .bcd _ => "BCD"
  | .stm _ => "STM"
  | .ldm _ => "LDM"

/-- One row of the opcode map R54: a word is the instruction when its masked bits are the row's. -/
structure OpcodeRow where
  mnemonic : String
  mask : Word
  pattern : Word
  deriving DecidableEq, Repr

/-- The word satisfies the row's condition `(w & mask) == match` (R54). -/
def OpcodeRow.selects (r : OpcodeRow) (w : Word) : Bool := w &&& r.mask == r.pattern

/-- Rows 1 to 9 of R54: families 0x0 to 0x7. -/
def opcodeRowsLow : List OpcodeRow :=
  [⟨"CLS", 0xF0FF, 0x0000⟩, ⟨"RET", 0xF0FF, 0x000E⟩, ⟨"JP", 0xF000, 0x1000⟩, ⟨"CALL", 0xF000, 0x2000⟩,
   ⟨"SEI", 0xF000, 0x3000⟩, ⟨"SNEI", 0xF000, 0x4000⟩, ⟨"SE", 0xF000, 0x5000⟩, ⟨"LDI", 0xF000, 0x6000⟩,
   ⟨"ADDI", 0xF000, 0x7000⟩]

/-- Rows 10 to 18 of R54: family 0x8. -/
def opcodeRows8 : List OpcodeRow :=
  [⟨"MOV", 0xF00F, 0x8000⟩, ⟨"OR", 0xF00F, 0x8001⟩, ⟨"AND", 0xF00F, 0x8002⟩, ⟨"XOR", 0xF00F, 0x8003⟩,
   ⟨"ADD", 0xF00F, 0x8004⟩, ⟨"SUB", 0xF00F, 0x8005⟩, ⟨"SHR", 0xF00F, 0x8006⟩, ⟨"SUBN", 0xF00F, 0x8007⟩,
   ⟨"SHL", 0xF00F, 0x800E⟩]

/-- Rows 19 to 25 of R54: families 0x9 to 0xE. -/
def opcodeRowsHigh : List OpcodeRow :=
  [⟨"SNE", 0xF000, 0x9000⟩, ⟨"LDA", 0xF000, 0xA000⟩, ⟨"JPV", 0xF000, 0xB000⟩, ⟨"RND", 0xF000, 0xC000⟩,
   ⟨"DRW", 0xF000, 0xD000⟩, ⟨"SKP", 0xF0FF, 0xE09E⟩, ⟨"SKNP", 0xF0FF, 0xE0A1⟩]

/-- Rows 26 to 34 of R54: family 0xF. -/
def opcodeRowsF : List OpcodeRow :=
  [⟨"GDT", 0xF0FF, 0xF007⟩, ⟨"WKEY", 0xF0FF, 0xF00A⟩, ⟨"SDT", 0xF0FF, 0xF015⟩, ⟨"SST", 0xF0FF, 0xF018⟩,
   ⟨"ADDA", 0xF0FF, 0xF01E⟩, ⟨"FNT", 0xF0FF, 0xF029⟩, ⟨"BCD", 0xF0FF, 0xF033⟩, ⟨"STM", 0xF0FF, 0xF055⟩,
   ⟨"LDM", 0xF0FF, 0xF065⟩]

/-- The complete map R54, in its order. -/
def opcodeRows : List OpcodeRow := opcodeRowsLow ++ opcodeRows8 ++ opcodeRowsHigh ++ opcodeRowsF

/-- The word of an instruction whose table bits are `w`, `nbits` of them; the bits above are 0. -/
def tableWord (nbits w : Nat) : Word := BitVec.ofNat 16 (w % 2 ^ nbits)

/-- What the decoder reads from an instruction whose bits are `w`, numbered as spec/opcode_table.json numbers them
(bit 0 the least significant bit of the one word), laid out high byte first. -/
def decodeTableWord (nbits w : Nat) : Option Instr :=
  match decode [highByte (tableWord nbits w), lowByte (tableWord nbits w)] with
  | .ok (i, _) => some i
  | .error _ => none

end Sys2Proof
end

