-- ==== Sys2Proof/Config.lean ====
section
/-! DEFINITION. What the implementation fixes (spec/00_scope.md R3, R4) and the one free value of the spec, the random byte.
The font, a parameter too, is in Machine/Font.lean. -/
namespace Sys2Proof

/-- `MEM_SIZE` (R4, D1): the number of bytes of main memory. UNVERIFIED, unsafe: log entry 10. -/
abbrev Config.memSize : Nat := 4096

/-- `PROGRAM_ORIGIN` (R4, D3): where the program is loaded and where `pc` starts. -/
abbrev Config.programOrigin : Nat := 0x200

/-- The longest program `Reset` takes: `MEM_SIZE - PROGRAM_ORIGIN` (spec/70_reset_and_hazards.md R162). -/
abbrev Config.maxProgram : Nat := Config.memSize - Config.programOrigin

/-- `RandByte()` (spec/10_state.md R22, D14): the byte of the k-th draw, under no law. A free value: nothing in
Lean can evaluate it, so a statement about it holds for every random source. DESIGN CHOICE, safe: log entry 2. -/
opaque Config.randByte : Nat → Byte

end Sys2Proof
end

