-- ==== Sys2Proof/Machine/State.lean ====
section
/-! DEFINITION. The state of the machine (spec/10_state.md), its fault and refusal types, and the state after reset. -/
namespace Sys2Proof.Machine

/-- Main memory (spec/10_state.md R18): the cells that differ from the reset contents, addresses strictly rising. -/
abbrev Memory := List Host.Cell

/-- The framebuffer (spec/10_state.md R19): 32 rows of 64 one-bit cells, `fb[r][c]`. -/
abbrev Framebuffer := Vector (Vector Bool 64) 32

/-- The kinds of diagnostic (spec/60_exceptions.md R140). -/
inductive DiagKind where
  /-- Code 1, raised by any step whose word matches no row (R141). -/
  | unknownInstruction
  /-- Code 2, raised by `CALL` with 16 return addresses held (R142). -/
  | stackOverflow
  /-- Code 3, raised by `RET` with none held (R143). -/
  | stackUnderflow
  deriving DecidableEq, Repr

/-- A diagnostic report `(kind, w, p)` (spec/60_exceptions.md R140). -/
structure Diag where
  kind : DiagKind
  /-- The instruction word being executed. -/
  word : Word
  /-- `pc` at dispatch: the fetch address plus 2 (D8; log entry 15). -/
  pc : Word
  deriving DecidableEq, Repr

/-- What can stop a step with a fault: nothing. No condition of the machine stops it (spec/40_flow.md R70,
spec/60_exceptions.md R144): a diagnostic is a next state. -/
inductive Fault where
  deriving DecidableEq, Repr

/-- What can leave a step without a meaning. -/
inductive Refusal where
  /-- Raised by an arm of `exec` whose instruction has no meaning yet; safe. No arm does. -/
  | notModelled (mnemonic : String)
  deriving DecidableEq, Repr

/-- The state of the machine. The fields to `dirty` are the spec's state (spec/10_state.md section 1); `keys` is the
spec's input, held where the step reads it (log entry 1); `diags` and `draws` are the model's own (log entries 3, 2). -/
structure State where
  /-- `V[0]`..`V[15]` (R10); `V[15]` is `VF` (R11). -/
  V : Vector Byte 16
  /-- The index register (R12). -/
  I : Word
  /-- The program counter (R13). -/
  pc : Word
  /-- The call stack: 16 saved return addresses (R14). -/
  stack : Vector Word 16
  /-- The stack pointer, 0..16 (R15; log entry 13). -/
  sp : Fin 17
  /-- The delay timer (R16). -/
  DT : Byte
  /-- The sound timer (R17). -/
  ST : Byte
  /-- Main memory (R18). -/
  mem : Memory
  /-- The framebuffer (R19). -/
  fb : Framebuffer
  /-- The dirty flag (R20). -/
  dirty : Bool
  /-- The key snapshot: bit `k` is 1 while key `k` is held (R21). -/
  keys : Word
  /-- Every diagnostic raised so far, oldest first (R23, R140). -/
  diags : List Diag
  /-- How many random bytes have been drawn (R22). -/
  draws : Nat
  deriving DecidableEq, Repr

/-- The machine right after reset with no program (spec/70_reset_and_hazards.md R160 with L = 0): memory lists
nothing, so every byte reads as its reset content (font at 0x000..0x04F, 0 elsewhere). Zero for the registers, the
timers, the stack and `dirty` is R160 (D17; log entry 14). `keys`, `diags`, `draws`: DESIGN CHOICE, log entries 1, 3, 2. -/
def State.reset : State where
  V := Vector.replicate 16 0
  I := 0
  pc := BitVec.ofNat 16 Config.programOrigin
  stack := Vector.replicate 16 0
  sp := 0
  DT := 0
  ST := 0
  mem := []
  fb := Vector.replicate 32 (Vector.replicate 64 false)
  dirty := false
  keys := 0
  diags := []
  draws := 0

end Sys2Proof.Machine
end

