-- ==== Sys2Proof/Machine/Ops.lean ====
section
/-! DEFINITION. The named operations over memory, registers, the call stack, the framebuffer and the diagnostic record:
the pseudocode primitives of spec/00_scope.md section 6. -/
namespace Sys2Proof.Machine

/-! ### Main memory (spec/20_memory.md) -/

/-- What an unlisted address reads as: the reset contents, the font at 0x000..0x04F and 0 elsewhere
(spec/20_memory.md R32, spec/70_reset_and_hazards.md R160). -/
def Memory.unlisted (a : Nat) : Byte := font.getD a 0

/-- The cell at `a` put before `tl`, unless it holds what an unlisted address reads as. -/
def Memory.cons (a : Nat) (v : Byte) (tl : Memory) : Memory :=
  if v = Memory.unlisted a then tl else (a, v) :: tl

/-- The byte at address `a`, which is below 4096. -/
def Memory.get : Memory → Nat → Byte
  | [], a => Memory.unlisted a
  | (b, w) :: rest, a => if b = a then w else Memory.get rest a

/-- Memory with `v` at address `a`, which is below 4096, in canonical form. -/
def Memory.put : Memory → Nat → Byte → Memory
  | [], a, v => Memory.cons a v []
  | (b, w) :: rest, a, v =>
    if a < b then Memory.cons a v ((b, w) :: rest)
    else if a = b then Memory.cons a v rest
    else (b, w) :: Memory.put rest a v

/-- The canonical form: addresses strictly rising and below 4096, no entry equal to what an unlisted address reads as. -/
abbrev Memory.wf (m : Memory) : Prop :=
  m.Pairwise (fun p q => p.1 < q.1) ∧ ∀ p ∈ m, p.1 < Config.memSize ∧ p.2 ≠ Memory.unlisted p.1

/-- `MemRead(a, 1)`: the byte at `a mod MEM_SIZE` (spec/20_memory.md R31). -/
def State.readByte (s : State) (a : Nat) : Byte := s.mem.get (a % Config.memSize)

/-- `MemWrite(a, 1, v)`: `v` stored at `a mod MEM_SIZE` (spec/20_memory.md R31). -/
def State.writeByte (s : State) (a : Nat) (v : Byte) : State :=
  { s with mem := s.mem.put (a % Config.memSize) v }

/-- The bytes stored one after another from address `a` (spec/20_memory.md R33). -/
def State.storeBytes (s : State) (a : Nat) : List Byte → State
  | [] => s
  | v :: vs => (s.writeByte a v).storeBytes (a + 1) vs

/-! ### General registers, index register, program counter, timers -/

/-- `V[k]` (spec/10_state.md R10). -/
def State.reg (s : State) (k : Nibble) : Byte := s.V[k.toNat]'k.isLt

/-- `V[k] <- v`. -/
def State.setReg (s : State) (k : Nibble) (v : Byte) : State := { s with V := s.V.set k.toNat v k.isLt }

/-- `VF <- v`: register 15, the flag register (spec/10_state.md R11). -/
def State.setVF (s : State) (v : Byte) : State := s.setReg 0xF v

/-- `I <- v`. -/
def State.setI (s : State) (v : Word) : State := { s with I := v }

/-- `pc <- v`. -/
def State.setPc (s : State) (v : Word) : State := { s with pc := v }

/-- The advance of the fetch (spec/40_flow.md R70): `pc <- (pc + 2) mod 65536`. -/
def State.advance (s : State) : State := s.setPc (s.pc + 2)

/-- The skip primitive (spec/40_flow.md R71). -/
def State.skip (s : State) : State := s.setPc (s.pc + 2)

/-- `skip` when the condition holds. -/
def State.skipIf (s : State) (c : Bool) : State := if c then s.skip else s

/-- `DT <- v`. -/
def State.setDT (s : State) (v : Byte) : State := { s with DT := v }

/-- `ST <- v`. -/
def State.setST (s : State) (v : Byte) : State := { s with ST := v }

/-- `V[0]`..`V[n-1]`, lowest first. -/
def State.lowRegs (s : State) (n : Nat) : List Byte := (List.range n).map fun k => s.reg (BitVec.ofNat 4 k)

/-- `V[k] <- MemRead(a + k, 1)` for `k` = 0..n-1, ascending (spec/42_index_memory.md R115). -/
def State.loadRegs (s : State) (a n : Nat) : State :=
  (List.range n).foldl (fun t k => t.setReg (BitVec.ofNat 4 k) (t.readByte (a + k))) s

/-! ### Fetch -/

/-- The word at `pc`: the bytes at `pc` and `pc + 1`, high-order byte first (spec/40_flow.md R70, spec/20_memory.md R34). -/
def State.fetchWord (s : State) : Word := wordOfBytes (s.readByte s.pc.toNat) (s.readByte (s.pc + 1).toNat)

/-- The word `w` stored where the next step fetches. -/
def State.placeWord (s : State) (w : Word) : State :=
  (s.writeByte s.pc.toNat (highByte w)).writeByte (s.pc + 1).toNat (lowByte w)

/-! ### Call stack (spec/10_state.md R14, R15) -/

/-- `stack[sp] <- v; sp <- sp + 1`; none when 16 entries are held. -/
def State.push (s : State) (v : Word) : Option State :=
  if h : s.sp.val < 16 then
    some { s with stack := s.stack.set s.sp.val v h, sp := ⟨s.sp.val + 1, by omega⟩ }
  else none

/-- `sp <- sp - 1` and the value of `stack[sp]`, which stays in its slot; none when no entry is held. -/
def State.pop (s : State) : Option (Word × State) :=
  if h : 0 < s.sp.val then
    some (s.stack[s.sp.val - 1]'(by omega), { s with sp := ⟨s.sp.val - 1, by omega⟩ })
  else none

/-! ### Framebuffer (spec/10_state.md R19, spec/20_memory.md R44) -/

/-- `fb[r][c]`. -/
def Framebuffer.cell (fb : Framebuffer) (r : Fin 32) (c : Fin 64) : Bool := fb[r.val][c.val]

/-- `fb[r][c] <- b`. -/
def Framebuffer.setCell (fb : Framebuffer) (r : Fin 32) (c : Fin 64) (b : Bool) : Framebuffer :=
  fb.set r.val ((fb[r.val]).set c.val b)

/-- The framebuffer with every cell 0. -/
def Framebuffer.clear : Framebuffer := Vector.replicate 32 (Vector.replicate 64 false)

/-- `fb <- v`. -/
def State.setFb (s : State) (v : Framebuffer) : State := { s with fb := v }

/-- `dirty <- 1 - dirty` (spec/10_state.md R20). -/
def State.toggleDirty (s : State) : State := { s with dirty := !s.dirty }

/-! ### Random source (spec/10_state.md R22) -/

/-- The byte of the next `RandByte()`: a free value (log entry 2). -/
def State.randByte (s : State) : Byte := Config.randByte s.draws

/-- One byte drawn from the random source. -/
def State.countDraw (s : State) : State := { s with draws := s.draws + 1 }

/-! ### Taking an exception: the diagnostic report (spec/60_exceptions.md R140, R146) -/

/-- The numeric code of a kind (R140). -/
def DiagKind.code : DiagKind → Nat
  | .unknownInstruction => 1
  | .stackOverflow => 2
  | .stackUnderflow => 3

/-- `raise Diag.<Kind>(w, pc)`: the report is recorded with the `pc` of the dispatch, the advanced one. Nothing is
saved elsewhere, no mode changes and `pc` is not redirected (R146); the machine has no return from it (R147). -/
def State.raiseDiag (s : State) (kind : DiagKind) (w : Word) : State :=
  { s with diags := s.diags ++ [⟨kind, w, s.pc⟩] }

end Sys2Proof.Machine
end

