-- ==== Sys2Proof/Machine/Operands.lean ====
section
/-! DEFINITION. The operand forms: literals (spec/30_encoding.md R53), keys (spec/20_memory.md R45), decimal digits
(spec/42_index_memory.md R113) and sprite cells (spec/43_display.md R121). -/
namespace Sys2Proof.Machine

/-- `zext_16(nnn)`: a 12-bit literal as a 16-bit value (spec/30_encoding.md R53). -/
def zext16 (nnn : Addr12) : Word := nnn.setWidth 16

/-- `zext_16(v)` of a register value. -/
def zext16Byte (v : Byte) : Word := v.setWidth 16

/-- The base of a data access: `I` as an unbounded number, to which an instruction adds its offset before the
reduction of spec/20_memory.md R31. -/
def State.base (s : State) : Nat := s.I.toNat

/-- `keys[v mod 16]` (spec/20_memory.md R45, D13; UNVERIFIED, unsafe: log entry 12). -/
def State.keyHeld (s : State) (v : Byte) : Bool := s.keys.getLsbD (v.toNat % 16)

/-- The least `k` in 0..15 with `keys[k] == 1`; none when no key is held (spec/44_keys_timers.md R133, D12;
UNVERIFIED, unsafe: log entry 12). -/
def leastKey (keys : Word) : Option Nat := (List.range 16).find? fun k => keys.getLsbD k

/-- The decimal digits of `v`, most significant first (spec/42_index_memory.md R113). -/
def bcdDigits (v : Byte) : List Byte :=
  [BitVec.ofNat 8 (v.toNat / 100), BitVec.ofNat 8 (v.toNat / 10 % 10), BitVec.ofNat 8 (v.toNat % 10)]

/-- The framebuffer row of sprite row `k` drawn at vertical origin `y0` (spec/43_display.md R121). -/
def cellRow (y0 k : Nat) : Fin 32 := ⟨(y0 + k) % 32, Nat.mod_lt _ (by decide)⟩

/-- The framebuffer column of sprite column `k` drawn at horizontal origin `x0` (spec/43_display.md R121). -/
def cellCol (x0 k : Nat) : Fin 64 := ⟨(x0 + k) % 64, Nat.mod_lt _ (by decide)⟩

/-- The cells the set bits of one sprite byte name, leftmost (bit 7) first. -/
def rowCells (b : Byte) (r : Fin 32) (x0 : Nat) : List (Fin 32 × Fin 64) :=
  ((List.range 8).filter fun k => b.getLsbD (7 - k)).map fun k => (r, cellCol x0 k)

/-- The cells the set bits of the `n`-row sprite at `I` name, in the order `DRW` visits them (spec/43_display.md R121). -/
def State.spriteCells (s : State) (x0 y0 n : Nat) : List (Fin 32 × Fin 64) :=
  (List.range n).flatMap fun k => rowCells (s.readByte (s.base + k)) (cellRow y0 k) x0

end Sys2Proof.Machine
end

