-- ==== Sys2Proof/Machine/Alu.lean ====
section
/-! DEFINITION. Register load, arithmetic, logic, shift and random instructions (spec/41_alu.md). Where an instruction writes
both `V[x]` and `VF`, the writes stand in the order of R103 (D7; UNVERIFIED, unsafe: log entry 9). -/
namespace Sys2Proof.Machine

/-- `LDI Vx, nn` (R90). -/
def execLdi (x : Nibble) (nn : Byte) (s : State) : Host.Outcome State Fault Refusal :=
  .next (s.setReg x nn)

/-- `ADDI Vx, nn` (R91): wraps, no flag. -/
def execAddi (x : Nibble) (nn : Byte) (s : State) : Host.Outcome State Fault Refusal :=
  .next (s.setReg x (s.reg x + nn))

/-- `MOV Vx, Vy` (R92). -/
def execMov (x y : Nibble) (s : State) : Host.Outcome State Fault Refusal :=
  .next (s.setReg x (s.reg y))

/-- `OR Vx, Vy` (R93): no flag. -/
def execOr (x y : Nibble) (s : State) : Host.Outcome State Fault Refusal :=
  .next (s.setReg x (s.reg x ||| s.reg y))

/-- `AND Vx, Vy` (R94): no flag. -/
def execAnd (x y : Nibble) (s : State) : Host.Outcome State Fault Refusal :=
  .next (s.setReg x (s.reg x &&& s.reg y))

/-- `XOR Vx, Vy` (R95): no flag. -/
def execXor (x y : Nibble) (s : State) : Host.Outcome State Fault Refusal :=
  .next (s.setReg x (s.reg x ^^^ s.reg y))

/-- `ADD Vx, Vy` (R96): the sum, then the carry. -/
def execAdd (x y : Nibble) (s : State) : Host.Outcome State Fault Refusal :=
  .next ((s.setReg x (s.reg x + s.reg y)).setVF (carry (s.reg x) (s.reg y)))

/-- `SUB Vx, Vy` (R97): the difference, then the borrow. -/
def execSub (x y : Nibble) (s : State) : Host.Outcome State Fault Refusal :=
  .next ((s.setReg x (s.reg x - s.reg y)).setVF (borrow (s.reg x) (s.reg y)))

/-- `SHR Vx` (R98): the flag first, then the shift of `V[x]` read again. The `y` digit is ignored (R5, R59). -/
def execShr (x _y : Nibble) (s : State) : Host.Outcome State Fault Refusal :=
  let t := s.setVF (lowBit (s.reg x))
  .next (t.setReg x (t.reg x >>> 1))

/-- `SUBN Vx, Vy` (R99): the reverse difference, then its borrow. -/
def execSubn (x y : Nibble) (s : State) : Host.Outcome State Fault Refusal :=
  .next ((s.setReg x (s.reg y - s.reg x)).setVF (borrow (s.reg y) (s.reg x)))

/-- `SHL Vx` (R100): the flag first, then the shift of `V[x]` read again. The `y` digit is ignored (R5, R59). -/
def execShl (x _y : Nibble) (s : State) : Host.Outcome State Fault Refusal :=
  let t := s.setVF (highBit (s.reg x))
  .next (t.setReg x (t.reg x <<< 1))

/-- `RND Vx, nn` (R101): one byte is drawn, whatever the mask. -/
def execRnd (x : Nibble) (nn : Byte) (s : State) : Host.Outcome State Fault Refusal :=
  .next (s.countDraw.setReg x (s.randByte &&& nn))

end Sys2Proof.Machine
end

