-- ==== Sys2Proof/Machine/Display.lean ====
section
/-! DEFINITION. Framebuffer instructions (spec/43_display.md). -/
namespace Sys2Proof.Machine

/-- One pixel of a sprite (R121): the cell is inverted, and a collision noted when it was set. -/
def plot (acc : Framebuffer × Bool) (p : Fin 32 × Fin 64) : Framebuffer × Bool :=
  (acc.1.setCell p.1 p.2 (!acc.1.cell p.1 p.2), acc.2 || acc.1.cell p.1 p.2)

/-- The pixels one after another, from no collision (R121). -/
def draw (fb : Framebuffer) (cells : List (Fin 32 × Fin 64)) : Framebuffer × Bool := cells.foldl plot (fb, false)

/-- `CLS` (R120). The `x` digit is ignored (spec/30_encoding.md R59). -/
def execCls (_x : Nibble) (s : State) : Host.Outcome State Fault Refusal :=
  .next ((s.setFb Framebuffer.clear).toggleDirty)

/-- `DRW Vx, Vy, n` (R121): both origins are read before `VF` is written (D15). -/
def execDrw (x y n : Nibble) (s : State) : Host.Outcome State Fault Refusal :=
  let drawn := draw s.fb (s.spriteCells (s.reg x).toNat (s.reg y).toNat n.toNat)
  .next (((s.setFb drawn.1).setVF (flagByte drawn.2)).toggleDirty)

end Sys2Proof.Machine
end

