-- ==== Sys2Proof/Machine/Flow.lean ====
section
/-! DEFINITION. Control transfer (spec/40_flow.md). Every meaning runs on the state whose `pc` is already advanced (R70). -/
namespace Sys2Proof.Machine

/-- `RET` (R72, R143). The `x` digit takes no part but in the word a report carries. -/
def execRet (x : Nibble) (s : State) : Host.Outcome State Fault Refusal :=
  match s.pop with
  | some (target, t) => .next (t.setPc target)
  | none => .next (s.raiseDiag .stackUnderflow (encode (.ret x)))

/-- `JP nnn` (R73). -/
def execJp (nnn : Addr12) (s : State) : Host.Outcome State Fault Refusal :=
  .next (s.setPc (zext16 nnn))

/-- `CALL nnn` (R74, R142): pushes the advanced `pc`. -/
def execCall (nnn : Addr12) (s : State) : Host.Outcome State Fault Refusal :=
  match s.push s.pc with
  | some t => .next (t.setPc (zext16 nnn))
  | none => .next (s.raiseDiag .stackOverflow (encode (.call nnn)))

/-- `SEI Vx, nn` (R75). -/
def execSei (x : Nibble) (nn : Byte) (s : State) : Host.Outcome State Fault Refusal :=
  .next (s.skipIf (s.reg x == nn))

/-- `SNEI Vx, nn` (R76). -/
def execSnei (x : Nibble) (nn : Byte) (s : State) : Host.Outcome State Fault Refusal :=
  .next (s.skipIf (s.reg x != nn))

/-- `SE Vx, Vy` (R77). The `n` digit is ignored (spec/30_encoding.md R59). -/
def execSe (x y _n : Nibble) (s : State) : Host.Outcome State Fault Refusal :=
  .next (s.skipIf (s.reg x == s.reg y))

/-- `SNE Vx, Vy` (R78). The `n` digit is ignored (spec/30_encoding.md R59). -/
def execSne (x y _n : Nibble) (s : State) : Host.Outcome State Fault Refusal :=
  .next (s.skipIf (s.reg x != s.reg y))

/-- `JPV nnn` (R79): the sum is not reduced to 12 bits. -/
def execJpv (nnn : Addr12) (s : State) : Host.Outcome State Fault Refusal :=
  .next (s.setPc (zext16 nnn + zext16Byte (s.reg 0)))

end Sys2Proof.Machine
end

