-- ==== Sys2Proof/Machine/Index.lean ====
section
/-! DEFINITION. Index-register and memory instructions (spec/42_index_memory.md). -/
namespace Sys2Proof.Machine

/-- `LDA nnn` (R110). -/
def execLda (nnn : Addr12) (s : State) : Host.Outcome State Fault Refusal :=
  .next (s.setI (zext16 nnn))

/-- `ADDA Vx` (R111): 12-bit wrap; `V[x]` is read before `VF` is written. -/
def execAdda (x : Nibble) (s : State) : Host.Outcome State Fault Refusal :=
  .next ((s.setI (BitVec.ofNat 16 ((s.I.toNat + (s.reg x).toNat) % 0x1000))).setVF (indexOverflow s.I (s.reg x)))

/-- `FNT Vx` (R112): the whole register value, not its low digit. -/
def execFnt (x : Nibble) (s : State) : Host.Outcome State Fault Refusal :=
  .next (s.setI (BitVec.ofNat 16 ((s.reg x).toNat * 5)))

/-- `BCD Vx` (R113). -/
def execBcd (x : Nibble) (s : State) : Host.Outcome State Fault Refusal :=
  .next (s.storeBytes s.base (bcdDigits (s.reg x)))

/-- `STM Vx` (R114): `V[0]`..`V[x]`; `I` is unchanged (D26). -/
def execStm (x : Nibble) (s : State) : Host.Outcome State Fault Refusal :=
  .next (s.storeBytes s.base (s.lowRegs (x.toNat + 1)))

/-- `LDM Vx` (R115): `V[0]`..`V[x]`; `I` is unchanged (D26). -/
def execLdm (x : Nibble) (s : State) : Host.Outcome State Fault Refusal :=
  .next (s.loadRegs s.base (x.toNat + 1))

end Sys2Proof.Machine
end

