-- ==== Sys2Proof/Machine/Keys.lean ====
section
/-! DEFINITION. Key and timer instructions (spec/44_keys_timers.md). The timer tick is in Machine/Transactions.lean. -/
namespace Sys2Proof.Machine

/-- `SKP Vx` (R130). -/
def execSkp (x : Nibble) (s : State) : Host.Outcome State Fault Refusal :=
  .next (s.skipIf (s.keyHeld (s.reg x)))

/-- `SKNP Vx` (R131). -/
def execSknp (x : Nibble) (s : State) : Host.Outcome State Fault Refusal :=
  .next (s.skipIf (!s.keyHeld (s.reg x)))

/-- `GDT Vx` (R132). -/
def execGdt (x : Nibble) (s : State) : Host.Outcome State Fault Refusal :=
  .next (s.setReg x s.DT)

/-- `WKEY Vx` (R133): with no key held `pc` goes back to the fetch address. -/
def execWkey (x : Nibble) (s : State) : Host.Outcome State Fault Refusal :=
  match leastKey s.keys with
  | none => .next (s.setPc (s.pc - 2))
  | some k => .next (s.setReg x (BitVec.ofNat 8 k))

/-- `SDT Vx` (R134). -/
def execSdt (x : Nibble) (s : State) : Host.Outcome State Fault Refusal :=
  .next (s.setDT (s.reg x))

/-- `SST Vx` (R135). -/
def execSst (x : Nibble) (s : State) : Host.Outcome State Fault Refusal :=
  .next (s.setST (s.reg x))

end Sys2Proof.Machine
end

