-- ==== Sys2Proof/Machine/Cycle.lean ====
section
/-! DEFINITION. Decode and dispatch of a fetched word (spec/40_flow.md R70): what Machine/Step.lean calls. -/
namespace Sys2Proof.Machine

/-- The word `w` decoded and run on a state whose `pc` is already advanced; an unknown word raises
`UnknownInstruction` and changes nothing else (spec/60_exceptions.md R141). -/
def execWord (w : Word) (s : State) : Host.Outcome State Fault Refusal :=
  match decodeWord w with
  | .ok i => exec i s
  | .error _ => .next (s.raiseDiag .unknownInstruction w)

/-- One instruction step: fetch, advance, decode, dispatch (R70). -/
def cycle (s : State) : Host.Outcome State Fault Refusal := execWord s.fetchWord s.advance

/-- The state with the instruction whose table bits are `w` stored where the next fetch reads (log entry 5). -/
def placeTableWord (s : State) (nbits w : Nat) : State := s.placeWord (tableWord nbits w)

end Sys2Proof.Machine
end

