-- ==== Sys2Proof/Machine/Step.lean ====
section
/-! DEFINITION. The step of the machine, and an instruction word placed where the step fetches. -/
namespace Sys2Proof.Machine

/-- One instruction step (spec/40_flow.md R70). -/
def step (s : State) : Host.Outcome State Fault Refusal := cycle s

/-- `s` with an instruction of the opcode table stored at `pc`, high byte first; nothing else changes. -/
def State.withFetchWord (s : State) (nbits w : Nat) : State := placeTableWord s nbits w

end Sys2Proof.Machine
end

