-- ==== Sys2Proof/Machine/Transactions.lean ====
section
/-! DEFINITION. The host interface: the whole transactions of spec/60_exceptions.md R155, each atomic, each at an
instruction boundary, in any order and any number (spec/00_scope.md R6, D19, D21). `RandByte` and `Diag` happen inside
a `Step`; the other six are the constructors of `Transaction`. A schedule of the machine is a list of transactions. -/
namespace Sys2Proof.Machine

/-- A timer one lower, with a floor at 0 (spec/44_keys_timers.md R136). -/
def countDown (v : Byte) : Byte := if v = 0 then 0 else v - 1

/-- `TimerTick`: both timers in the same event (R136). -/
def timerTick (s : State) : State := (s.setDT (countDown s.DT)).setST (countDown s.ST)

/-- `SetKeys(k)`: all 16 keys at once (spec/10_state.md R21). -/
def setKeys (s : State) (k : Word) : State := { s with keys := k }

/-- The state after `Reset(program)` of a program that fits (spec/70_reset_and_hazards.md R160 to R162). The key
snapshot and the random source are inputs and are not reset, and the record of diagnostics is never cleared (log entry 16). -/
def loaded (program : List Byte) (s : State) : State :=
  { State.reset.storeBytes Config.programOrigin program with keys := s.keys, diags := s.diags, draws := s.draws }

/-- `Reset(program)`: refused whole when the program is too long, leaving the block as it was (R162, D18). -/
def resetLoad (program : List Byte) (s : State) : State :=
  if program.length ≤ Config.maxProgram then loaded program s else s

/-- A transaction the host may perform at an instruction boundary (R155). -/
inductive Transaction where
  | reset (program : List Byte)
  | step
  | timerTick
  | setKeys (k : Word)
  | readFrame
  | observe
  deriving DecidableEq, Repr

/-- What `Observe` shows (R155, D24). -/
structure Observation where
  V : Vector Byte 16
  I : Word
  pc : Word
  sp : Fin 17
  stack : Vector Word 16
  DT : Byte
  ST : Byte
  mem : Memory
  deriving DecidableEq, Repr

/-- What a transaction answers to the host. -/
inductive Reply where
  /-- Done, nothing to report. -/
  | done
  /-- `Reset(program)` refused: the program is too long (R162). -/
  | tooLong
  /-- `Step` done, with the diagnostics it raised: none or one (R145). -/
  | stepped (reports : List Diag)
  /-- `ReadFrame`: the whole grid and `dirty` together (spec/20_memory.md R44). -/
  | frame (fb : Framebuffer) (dirty : Bool)
  /-- `Observe`. -/
  | observation (o : Observation)
  deriving DecidableEq, Repr

/-- What a transaction does to the block (R155). -/
def transact (x : Transaction) (s : State) : Host.Outcome State Fault Refusal :=
  match x with
  | .reset program => .next (resetLoad program s)
  | .step => step s
  | .timerTick => .next (timerTick s)
  | .setKeys k => .next (setKeys s k)
  | .readFrame => .next s
  | .observe => .next s

/-- What the host sees of the state by `Observe`. -/
def observed (s : State) : Observation :=
  { V := s.V, I := s.I, pc := s.pc, sp := s.sp, stack := s.stack, DT := s.DT, ST := s.ST, mem := s.mem }

/-- What a transaction carries from the block to the host (R155). -/
def reply (x : Transaction) (s : State) : Reply :=
  match x with
  | .reset program => if program.length ≤ Config.maxProgram then .done else .tooLong
  | .step =>
    match step s with
    | .next t => .stepped (t.diags.drop s.diags.length)
    | .fault _ => .stepped []
    | .refused _ => .stepped []
  | .timerTick => .done
  | .setKeys _ => .done
  | .readFrame => .frame s.fb s.dirty
  | .observe => .observation (observed s)

/-- A schedule: the transactions one after another (spec/20_memory.md R38). -/
def runSchedule : List Transaction → State → Host.Outcome State Fault Refusal
  | [], s => .next s
  | x :: xs, s =>
    match transact x s with
    | .next t => runSchedule xs t
    | .fault r => .fault r
    | .refused r => .refused r

end Sys2Proof.Machine
end

