-- ==== Sys2Proof/Safety.lean ====
section
/-! DEFINITION. What counts as a safe run, the invariant of the machine, and the words claims are made in. -/
namespace Sys2Proof.Machine

/-- No diagnostic has been recorded: the machine has not gone wrong (spec/60_exceptions.md R140). -/
abbrev State.clean (s : State) : Prop := s.diags = []

/-- A recorded report fits its kind (spec/60_exceptions.md R140): an unknown word, a `CALL` word, a `RET` word. -/
def Diag.fits (d : Diag) : Prop :=
  match d.kind with
  | .unknownInstruction => decodeWord d.word = .error (.unknownWord d.word)
  | .stackOverflow => ∃ nnn, decodeWord d.word = .ok (.call nnn)
  | .stackUnderflow => ∃ x, decodeWord d.word = .ok (.ret x)

/-- The invariant: memory is in canonical form, bits 15..12 of `I` are 0 (spec/10_state.md R12), and every recorded
report fits its kind. -/
def State.Inv (s : State) : Prop := s.mem.wf ∧ s.I.toNat ≤ 0xFFF ∧ ∀ d ∈ s.diags, d.fits

/-- `i` answers a next state whose register `k` is `f k` for every `k`; every other field, and every byte of memory,
is as before. -/
def AnswersRegs (i : Instr) (s : State) (f : Nibble → Byte) : Prop :=
  ∃ t, exec i s = .next t ∧ (∀ k, t.reg k = f k) ∧ t = { s with V := t.V } ∧ ∀ a, t.readByte a = s.readByte a

/-- `i` answers a next state with `pc` = `v`; every other field is as before. -/
def AnswersPc (i : Instr) (s : State) (v : Word) : Prop := exec i s = .next { s with pc := v }

/-- A set bit of the `n`-row sprite at `I`, drawn at `(x0, y0)`, falls on the cell in row `r` and column `c`
(spec/43_display.md R121). -/
def SpriteCovers (s : State) (x0 y0 n : Nat) (r : Fin 32) (c : Fin 64) : Prop :=
  ∃ row < n, ∃ col < 8, (s.readByte (s.I.toNat + row)).getLsbD (7 - col) = true ∧
    r.val = (y0 + row) % 32 ∧ c.val = (x0 + col) % 64

/-- The registers an instruction may write (spec/10_state.md section 1 and R11): its destination, the flag register
for the seven that write it, `V[0]`..`V[x]` for `LDM`. -/
def mayWrite : Instr → Nibble → Prop
  | .ldi x _, k => k = x
  | .addi x _, k => k = x
  | .mov x _, k => k = x
  | .or x _, k => k = x
  | .and x _, k => k = x
  | .xor x _, k => k = x
  | .add x _, k => k = x ∨ k = 0xF
  | .sub x _, k => k = x ∨ k = 0xF
  | .shr x _, k => k = x ∨ k = 0xF
  | .subn x _, k => k = x ∨ k = 0xF
  | .shl x _, k => k = x ∨ k = 0xF
  | .rnd x _, k => k = x
  | .gdt x, k => k = x
  | .wkey x, k => k = x
  | .adda _, k => k = 0xF
  | .drw _ _ _, k => k = 0xF
  | .ldm x, k => k.toNat ≤ x.toNat
  | .cls _, _ => False
  | .ret _, _ => False
  | .jp _, _ => False
  | .call _, _ => False
  | .sei _ _, _ => False
  | .snei _ _, _ => False
  | .se _ _ _, _ => False
  | .sne _ _ _, _ => False
  | .lda _, _ => False
  | .jpv _, _ => False
  | .skp _, _ => False
  | .sknp _, _ => False
  | .sdt _, _ => False
  | .sst _, _ => False
  | .fnt _, _ => False
  | .bcd _, _ => False
  | .stm _, _ => False

/-- `pc` after a step that runs `i` from `s`, whose `pc` is the fetch address (spec/40_flow.md R80). -/
def netPc (i : Instr) (s : State) : Word :=
  match i with
  | .jp nnn => BitVec.ofNat 16 nnn.toNat
  | .call nnn => if s.sp.val < 16 then BitVec.ofNat 16 nnn.toNat else s.pc + 2
  | .ret _ => if h : 0 < s.sp.val then s.stack[s.sp.val - 1]'(by omega) else s.pc + 2
  | .jpv nnn => BitVec.ofNat 16 (nnn.toNat + (s.reg 0).toNat)
  | .sei x nn => if s.reg x = nn then s.pc + 4 else s.pc + 2
  | .snei x nn => if s.reg x = nn then s.pc + 2 else s.pc + 4
  | .se x y _ => if s.reg x = s.reg y then s.pc + 4 else s.pc + 2
  | .sne x y _ => if s.reg x = s.reg y then s.pc + 2 else s.pc + 4
  | .skp x => if s.keys.getLsbD ((s.reg x).toNat % 16) = true then s.pc + 4 else s.pc + 2
  | .sknp x => if s.keys.getLsbD ((s.reg x).toNat % 16) = true then s.pc + 2 else s.pc + 4
  | .wkey _ => if s.keys = 0 then s.pc else s.pc + 2
  | _ => s.pc + 2

end Sys2Proof.Machine
end

