-- ==== Sys2Proof/Certificates/Slice0/Obligations.lean ====
section
/-! DEFINITION. The statements for the provers. Each docstring names what of the spec the statement formalises. -/
open Sys2Proof Sys2Proof.Machine

/-! ### Encoding -/

/-- spec/30_encoding.md R51, R54: every instruction, at every value of every operand, is read back from its word. -/
def Obligations.DecodeOfEncode : Prop := ∀ i : Instr, decodeWord (encode i) = .ok i

/-- spec/30_encoding.md R51, R54: a word that decodes is the word of the instruction it decodes to: no bit is lost. -/
def Obligations.EncodeOfDecode : Prop := ∀ (w : Word) (i : Instr), decodeWord w = .ok i → encode i = w

/-- spec/30_encoding.md R54: the decoder selects the first row of the map whose condition holds, none for an unknown
word, and at most one row's condition holds. -/
def Obligations.DecoderFollowsOpcodeMap : Prop :=
  (∀ w : Word, (decodeWord w).toOption.map mnemonic = (opcodeRows.find? fun r => r.selects w).map OpcodeRow.mnemonic) ∧
  ∀ (w : Word) (p q : OpcodeRow), p ∈ opcodeRows → q ∈ opcodeRows → p.selects w = true → q.selects w = true → p = q

/-- spec/30_encoding.md R56, R57, R58: what families 0x8, 0xE and 0xF select, and that the other values select nothing. -/
def Obligations.FamilySelectors : Prop :=
  (∀ x y n : Nibble, decodeWord (nibbles 0x8 x y n) =
    if n = 0x0 then .ok (.mov x y) else if n = 0x1 then .ok (.or x y) else if n = 0x2 then .ok (.and x y)
    else if n = 0x3 then .ok (.xor x y) else if n = 0x4 then .ok (.add x y) else if n = 0x5 then .ok (.sub x y)
    else if n = 0x6 then .ok (.shr x y) else if n = 0x7 then .ok (.subn x y) else if n = 0xE then .ok (.shl x y)
    else .error (.unknownWord (nibbles 0x8 x y n))) ∧
  (∀ (x : Nibble) (nn : Byte), decodeWord (wordXI 0xE x nn) =
    if nn = 0x9E then .ok (.skp x) else if nn = 0xA1 then .ok (.sknp x)
    else .error (.unknownWord (wordXI 0xE x nn))) ∧
  (∀ (x : Nibble) (nn : Byte), decodeWord (wordXI 0xF x nn) =
    if nn = 0x07 then .ok (.gdt x) else if nn = 0x0A then .ok (.wkey x) else if nn = 0x15 then .ok (.sdt x)
    else if nn = 0x18 then .ok (.sst x) else if nn = 0x1E then .ok (.adda x) else if nn = 0x29 then .ok (.fnt x)
    else if nn = 0x33 then .ok (.bcd x) else if nn = 0x55 then .ok (.stm x) else if nn = 0x65 then .ok (.ldm x)
    else .error (.unknownWord (wordXI 0xF x nn)))

/-- spec/30_encoding.md R60, the table: which words are unknown (family 0x0 by D5: log entry 8). -/
def Obligations.UnknownWordsExactly : Prop :=
  ∀ w : Word, decodeWord w = .error (.unknownWord w) ↔
    (fieldOp w = 0x0 ∧ fieldNN w ≠ 0x00 ∧ fieldNN w ≠ 0x0E) ∨
    (fieldOp w = 0x8 ∧ fieldN w ∈ ([0x8, 0x9, 0xA, 0xB, 0xC, 0xD, 0xF] : List Nibble)) ∨
    (fieldOp w = 0xE ∧ fieldNN w ≠ 0x9E ∧ fieldNN w ≠ 0xA1) ∨
    (fieldOp w = 0xF ∧ fieldNN w ∉ ([0x07, 0x0A, 0x15, 0x18, 0x1E, 0x29, 0x33, 0x55, 0x65] : List Byte))

/-- spec/30_encoding.md section 1: two bytes, the high-order one first, whatever follows. -/
def Obligations.InstructionIsTwoBytes : Prop :=
  (∀ (i : Instr) (rest : List Byte), decode (encodeBytes i ++ rest) = .ok (i, rest)) ∧
  ∀ (hi lo : Byte) (rest tail : List Byte) (i : Instr),
    decode (hi :: lo :: rest) = .ok (i, tail) → tail = rest ∧ hi = highByte (encode i) ∧ lo = lowByte (encode i)

/-- Words of spec/95_test_vectors.md, one of each family of the opcode table, decode to their instructions. That 0A00 is
`CLS` rests on the spec's decision D6 (the digit `x` is ignored: log entry 7; vector B2), that 00E0 is unknown on its
decision D5 (the literal dialect: log entry 8; vector X2). -/
def Obligations.SampleWordsDecode : Prop :=
  decode [0x0A, 0x00] = .ok (.cls 0xA, []) ∧ decode [0x23, 0x00] = .ok (.call 0x300, []) ∧
  decode [0x81, 0x27] = .ok (.subn 0x1 0x2, []) ∧ decode [0xF2, 0x1E] = .ok (.adda 0x2, []) ∧
  decode [0xD1, 0x25] = .ok (.drw 0x1 0x2 0x5, []) ∧ decode [0xE4, 0xA1] = .ok (.sknp 0x4, []) ∧
  decode [0x00, 0xE0] = .error (.unknownWord 0x00E0)

/-- spec/30_encoding.md R59 (D6: log entry 7): a don't-care digit has no effect on what an instruction does. -/
def Obligations.DontCareDigitsIgnored : Prop :=
  ∀ (s : State) (x y a b : Nibble),
    exec (.cls a) s = exec (.cls b) s ∧ (s.sp ≠ 0 → exec (.ret a) s = exec (.ret b) s) ∧
    exec (.se x y a) s = exec (.se x y b) s ∧ exec (.sne x y a) s = exec (.sne x y b) s ∧
    exec (.shr x a) s = exec (.shr x b) s ∧ exec (.shl x a) s = exec (.shl x b) s

/-! ### The step -/

/-- spec/20_memory.md section 2 (modulo 4096 by D2: log entry 10): the fetched word is big-endian, its bytes those at
`pc` and `pc + 1`. -/
def Obligations.FetchIsBigEndian : Prop :=
  ∀ s : State, highByte s.fetchWord = s.mem.get (s.pc.toNat % 4096) ∧
    lowByte s.fetchWord = s.mem.get ((s.pc.toNat + 1) % 4096)

/-- spec/40_flow.md R70: when the bytes at `pc` decode to an instruction, the step is that instruction run with `pc`
already advanced by 2. -/
def Obligations.StepRunsDecodedInstruction : Prop :=
  ∀ (s : State) (i : Instr), decode [s.readByte s.pc.toNat, s.readByte (s.pc + 1).toNat] = .ok (i, []) →
    step s = exec i { s with pc := s.pc + 2 }

/-- An instruction placed where the step fetches is the one the step runs (spec/40_flow.md R70, spec/20_memory.md R34). -/
def Obligations.PlacedInstructionRuns : Prop :=
  ∀ (s : State) (i : Instr), s.mem.wf →
    step (s.withFetchWord 16 (encode i).toNat) =
      exec i { s.withFetchWord 16 (encode i).toNat with pc := s.pc + 2 }

/-- spec/60_exceptions.md R141 (D8: log entry 15): a step whose word is unknown advances `pc`, records the report and
changes nothing else. -/
def Obligations.UnknownWordIsReportedNoOp : Prop :=
  ∀ s : State, decodeWord s.fetchWord = .error (.unknownWord s.fetchWord) →
    step s = .next { s with pc := s.pc + 2,
                            diags := s.diags ++ [⟨.unknownInstruction, s.fetchWord, s.pc + 2⟩] }

/-- spec/40_flow.md R70 and spec/60_exceptions.md R145, R146: from every state the step answers exactly one next state,
and it either records nothing or is a no-op that records one report of its own word and advanced `pc`. -/
def Obligations.StepIsTotalAndPrecise : Prop :=
  ∀ s : State, ∃ t, step s = .next t ∧
    (t.diags = s.diags ∨
      ∃ kind, t = { s with pc := s.pc + 2, diags := s.diags ++ [⟨kind, s.fetchWord, s.pc + 2⟩] })

/-- spec/60_exceptions.md section 1: a step records a report exactly when its word is unknown, is a `CALL` with 16 return
addresses held, or is a `RET` with none held. That the last two are reported and go on is the spec's own decision D9, D10,
and that an unknown word does is D8 (log entry 15). -/
def Obligations.ReportedExactlyWhen : Prop :=
  ∀ s t : State, step s = .next t →
    (t.diags ≠ s.diags ↔
      decodeWord s.fetchWord = .error (.unknownWord s.fetchWord) ∨
      (∃ nnn, decodeWord s.fetchWord = .ok (.call nnn) ∧ s.sp.val = 16) ∨
      (∃ x, decodeWord s.fetchWord = .ok (.ret x) ∧ s.sp.val = 0))

/-- spec/40_flow.md section 1, the table of net effects, with the conditions of spec/44_keys_timers.md section 1: the
net effect of a step on `pc`, for every instruction. The clauses on stack misuse rest on the spec's decisions D9, D10
(log entry 15), the key number modulo 16 on D13 (log entry 12), the unmasked 16-bit `pc` on D4 (log entry 17). -/
def Obligations.NetEffectOnPc : Prop :=
  ∀ (s : State) (i : Instr), decodeWord s.fetchWord = .ok i → ∃ t, step s = .next t ∧ t.pc = netPc i s

/-! ### Control transfer (spec/40_flow.md) -/

/-- Section 2: the jumps, their targets unmasked and unchecked (D4: log entry 17); a `JP` to its own address leaves the
state as it was. -/
def Obligations.JumpResults : Prop :=
  (∀ (s : State) (nnn : Addr12), AnswersPc (.jp nnn) s (BitVec.ofNat 16 nnn.toNat)) ∧
  (∀ (s : State) (nnn : Addr12), decodeWord s.fetchWord = .ok (.jp nnn) → s.pc.toNat = nnn.toNat → step s = .next s) ∧
  (∀ (s : State) (nnn : Addr12), AnswersPc (.jpv nnn) s (BitVec.ofNat 16 ((nnn.toNat + (s.reg 0).toNat) % 65536)))

/-- R75, R76: the skips on a literal, encoded `3XNN` and `4XNN`, on the advanced `pc`. -/
def Obligations.SkipOnLiteralResults : Prop :=
  ∀ (s : State) (x : Nibble) (nn : Byte),
    decodeWord (wordXI 0x3 x nn) = .ok (.sei x nn) ∧ decodeWord (wordXI 0x4 x nn) = .ok (.snei x nn) ∧
    AnswersPc (.sei x nn) s (if (s.reg x).toNat = nn.toNat then s.pc + 2 else s.pc) ∧
    AnswersPc (.snei x nn) s (if (s.reg x).toNat = nn.toNat then s.pc else s.pc + 2)

/-- Section 3: the skips on two registers, on the advanced `pc`, whatever the digit `n` (D6: log entry 7). -/
def Obligations.SkipOnRegisterResults : Prop :=
  ∀ (s : State) (x y n : Nibble),
    AnswersPc (.se x y n) s (if (s.reg x).toNat = (s.reg y).toNat then s.pc + 2 else s.pc) ∧
    AnswersPc (.sne x y n) s (if (s.reg x).toNat = (s.reg y).toNat then s.pc else s.pc + 2)

/-- R74: a `CALL` with a slot free pushes the advanced `pc` and jumps; nothing else changes. -/
def Obligations.CallPushesAndJumps : Prop :=
  ∀ (s : State) (nnn : Addr12), s.sp.val < 16 → ∃ t, exec (.call nnn) s = .next t ∧
    t.pc.toNat = nnn.toNat ∧ t.sp.val = s.sp.val + 1 ∧
    (∀ k (hk : k < 16), t.stack[k] = if k = s.sp.val then s.pc else s.stack[k]) ∧
    t = { s with pc := t.pc, sp := t.sp, stack := t.stack } ∧ ∀ a, t.readByte a = s.readByte a

/-- R72: a `RET` with an entry held pops it into `pc`; the slot keeps its value; nothing else changes. -/
def Obligations.RetPops : Prop :=
  ∀ (s : State) (x : Nibble) (k : Nat) (hk : k < 16), s.sp.val = k + 1 → ∃ t, exec (.ret x) s = .next t ∧
    t.pc = s.stack[k] ∧ t.sp.val = k ∧ t = { s with pc := t.pc, sp := t.sp } ∧ ∀ a, t.readByte a = s.readByte a

/-- spec/60_exceptions.md R142, R143 (D9, D10: log entry 15): a `CALL` on a full stack and a `RET` on an empty one
record a report and change nothing else. -/
def Obligations.StackMisuseIsReportedNoOp : Prop :=
  (∀ (s : State) (nnn : Addr12), s.sp.val = 16 → exec (.call nnn) s =
    .next { s with diags := s.diags ++ [⟨.stackOverflow, wordA 0x2 nnn, s.pc⟩] }) ∧
  (∀ (s : State) (x : Nibble), s.sp.val = 0 → exec (.ret x) s =
    .next { s with diags := s.diags ++ [⟨.stackUnderflow, nibbles 0x0 x 0x0 0xE, s.pc⟩] })

/-- R72, R74: a `RET` right after a `CALL` resumes after the `CALL`, with the stack pointer as before. -/
def Obligations.RetUndoesCall : Prop :=
  ∀ (s : State) (nnn : Addr12) (x : Nibble), s.sp.val < 16 → ∃ t u, exec (.call nnn) s = .next t ∧
    exec (.ret x) t.advance = .next u ∧ u.pc = s.pc ∧ u.sp = s.sp ∧
    (∀ k (hk : k < 16), k < s.sp.val → u.stack[k] = s.stack[k]) ∧ u = { s with stack := u.stack }

/-! ### Register load, arithmetic, logic, shift, random (spec/41_alu.md) -/

/-- R90, R91, R92: the loads and the literal add, which writes no flag, with their encodings. -/
def Obligations.LoadResults : Prop :=
  ∀ (s : State) (x y : Nibble) (nn : Byte),
    decodeWord (wordXI 0x6 x nn) = .ok (.ldi x nn) ∧ decodeWord (wordXI 0x7 x nn) = .ok (.addi x nn) ∧
    decodeWord (nibbles 0x8 x y 0x0) = .ok (.mov x y) ∧
    AnswersRegs (.ldi x nn) s (fun k => if k = x then nn else s.reg k) ∧
    AnswersRegs (.addi x nn) s
      (fun k => if k = x then BitVec.ofNat 8 (((s.reg x).toNat + nn.toNat) % 256) else s.reg k) ∧
    AnswersRegs (.mov x y) s (fun k => if k = x then s.reg y else s.reg k)

/-- R93, R94, R95: the bitwise instructions, which write no flag, with their encodings. -/
def Obligations.LogicResults : Prop :=
  ∀ (s : State) (x y : Nibble),
    decodeWord (nibbles 0x8 x y 0x1) = .ok (.or x y) ∧ decodeWord (nibbles 0x8 x y 0x2) = .ok (.and x y) ∧
    decodeWord (nibbles 0x8 x y 0x3) = .ok (.xor x y) ∧
    AnswersRegs (.or x y) s (fun k => if k = x then s.reg x ||| s.reg y else s.reg k) ∧
    AnswersRegs (.and x y) s (fun k => if k = x then s.reg x &&& s.reg y else s.reg k) ∧
    AnswersRegs (.xor x y) s (fun k => if k = x then s.reg x ^^^ s.reg y else s.reg k)

/-- R96, R97, R99, R103 (for `x` = 15, where the flag survives, D7: log entry 9): sum and carry, difference and
borrow, reverse difference and borrow; the flag is 1 when a borrow occurs. -/
def Obligations.ArithmeticResults : Prop :=
  ∀ (s : State) (x y : Nibble),
    AnswersRegs (.add x y) s (fun k =>
      if k = 0xF then (if (s.reg x).toNat + (s.reg y).toNat > 255 then 1 else 0)
      else if k = x then BitVec.ofNat 8 (((s.reg x).toNat + (s.reg y).toNat) % 256) else s.reg k) ∧
    AnswersRegs (.sub x y) s (fun k =>
      if k = 0xF then (if (s.reg x).toNat < (s.reg y).toNat then 1 else 0)
      else if k = x then BitVec.ofNat 8 (((s.reg x).toNat + 256 - (s.reg y).toNat) % 256) else s.reg k) ∧
    AnswersRegs (.subn x y) s (fun k =>
      if k = 0xF then (if (s.reg y).toNat < (s.reg x).toNat then 1 else 0)
      else if k = x then BitVec.ofNat 8 (((s.reg y).toNat + 256 - (s.reg x).toNat) % 256) else s.reg k)

/-- R98, R100, R103 (for `x` = 15, where the shift of the flag survives, D7: log entry 9): the shifts by one. -/
def Obligations.ShiftResults : Prop :=
  ∀ (s : State) (x y : Nibble),
    AnswersRegs (.shr x y) s (fun k =>
      if k = x then (if x = 0xF then 0 else BitVec.ofNat 8 ((s.reg x).toNat / 2))
      else if k = 0xF then BitVec.ofNat 8 ((s.reg x).toNat % 2) else s.reg k) ∧
    AnswersRegs (.shl x y) s (fun k =>
      if k = x then
        (if x = 0xF then (if 128 ≤ (s.reg x).toNat then 2 else 0) else BitVec.ofNat 8 ((s.reg x).toNat * 2 % 256))
      else if k = 0xF then BitVec.ofNat 8 ((s.reg x).toNat / 128) else s.reg k)

/-- Section 6 (free draw by D14; the counter of draws is the model's: log entry 2): one byte is drawn, whatever it is,
and `V[x]` becomes it AND `nn`, a submask of `nn`. -/
def Obligations.RandomResult : Prop :=
  ∀ (s : State) (x : Nibble) (nn : Byte), ∃ t, exec (.rnd x nn) s = .next t ∧
    (∀ k, t.reg k = if k = x then Config.randByte s.draws &&& nn else s.reg k) ∧ t.reg x &&& ~~~nn = 0 ∧
    t = { s with V := t.V, draws := s.draws + 1 } ∧ ∀ a, t.readByte a = s.readByte a

/-! ### Index register and memory (spec/42_index_memory.md) -/

/-- R110, R112: `I` from a literal, and the glyph address, with their encodings. -/
def Obligations.IndexLoadResults : Prop :=
  ∀ (s : State) (nnn : Addr12) (x : Nibble),
    decodeWord (wordA 0xA nnn) = .ok (.lda nnn) ∧ decodeWord (nibbles 0xF x 0x2 0x9) = .ok (.fnt x) ∧
    exec (.lda nnn) s = .next { s with I := BitVec.ofNat 16 nnn.toNat } ∧
    exec (.fnt x) s = .next { s with I := BitVec.ofNat 16 ((s.reg x).toNat * 5) }

/-- R111: the 12-bit wrap of `I` and its flag, written on every execution, with its encoding. -/
def Obligations.IndexAddResult : Prop :=
  ∀ (s : State) (x : Nibble), decodeWord (nibbles 0xF x 0x1 0xE) = .ok (.adda x) ∧ ∃ t, exec (.adda x) s = .next t ∧
    t.I.toNat = (s.I.toNat + (s.reg x).toNat) % 0x1000 ∧
    (∀ k, t.reg k = if k = 0xF then (if s.I.toNat + (s.reg x).toNat > 0xFFF then 1 else 0) else s.reg k) ∧
    t = { s with I := t.I, V := t.V } ∧ ∀ a, t.readByte a = s.readByte a

/-- R113 (wrap by D2: log entry 10): the three digits at `I`, `I + 1`, `I + 2` modulo 4096, every other byte as before. -/
def Obligations.DigitStoreResult : Prop :=
  ∀ (s : State) (x : Nibble), s.mem.wf → ∃ t, exec (.bcd x) s = .next t ∧
    (∀ a, t.readByte a =
      if a % 4096 = s.I.toNat % 4096 then BitVec.ofNat 8 ((s.reg x).toNat / 100)
      else if a % 4096 = (s.I.toNat + 1) % 4096 then BitVec.ofNat 8 ((s.reg x).toNat / 10 % 10)
      else if a % 4096 = (s.I.toNat + 2) % 4096 then BitVec.ofNat 8 ((s.reg x).toNat % 10)
      else s.readByte a) ∧
    t = { s with mem := t.mem }

/-- R114 (D26, D2: log entries 11, 10): `V[0]`..`V[x]` at `I`..`I + x` modulo 4096, every other byte as before. -/
def Obligations.RegisterDumpResult : Prop :=
  ∀ (s : State) (x : Nibble), s.mem.wf → ∃ t, exec (.stm x) s = .next t ∧
    (∀ k : Nibble, k.toNat ≤ x.toNat → t.readByte (s.I.toNat + k.toNat) = s.reg k) ∧
    (∀ a, (∀ k ≤ x.toNat, a % 4096 ≠ (s.I.toNat + k) % 4096) → t.readByte a = s.readByte a) ∧
    t = { s with mem := t.mem }

/-- R115 (D26, D2: log entries 11, 10): `V[0]`..`V[x]` from `I`..`I + x` modulo 4096, the registers above as before. -/
def Obligations.RegisterLoadResult : Prop :=
  ∀ (s : State) (x : Nibble),
    AnswersRegs (.ldm x) s
      (fun k => if k.toNat ≤ x.toNat then s.mem.get ((s.I.toNat + k.toNat) % 4096) else s.reg k)

/-- The round trip of R115: after a dump, a load of the same registers from the same `I`, from any state with that
memory, brings the dumped values back. -/
def Obligations.DumpThenLoadRoundTrips : Prop :=
  ∀ (s u : State) (x : Nibble), s.mem.wf → ∃ t, exec (.stm x) s = .next t ∧
    (u.mem = t.mem → u.I = s.I → ∃ v, exec (.ldm x) u = .next v ∧ ∀ k : Nibble, k.toNat ≤ x.toNat → v.reg k = s.reg k)

/-- spec/20_memory.md R42 (D20): the bytes a dump stores are the word the next fetch reads there. -/
def Obligations.StoreIsSeenByNextFetch : Prop :=
  ∀ (s : State) (x : Nibble), s.mem.wf → 1 ≤ x.toNat → s.pc.toNat % 4096 = s.I.toNat % 4096 →
    ∃ t, exec (.stm x) s = .next t ∧ t.fetchWord = wordOfBytes (s.reg 0) (s.reg 1)

/-! ### Framebuffer (spec/43_display.md) -/

/-- `CLS` (the digit `x` by D6: log entry 7): every cell 0, `dirty` inverted, nothing else. -/
def Obligations.ClearResult : Prop :=
  ∀ (s : State) (x : Nibble), ∃ t, exec (.cls x) s = .next t ∧ (∀ r c, t.fb.cell r c = false) ∧ t.dirty = !s.dirty ∧
    t = { s with fb := t.fb, dirty := t.dirty } ∧ ∀ a, t.readByte a = s.readByte a

/-- R121 (D15, D2: log entries 11, 10): exactly the cells under a set bit of the sprite are inverted, `VF` says whether
one of them was set, `dirty` is inverted, nothing else changes. -/
def Obligations.DrawResult : Prop :=
  ∀ (s : State) (x y n : Nibble), ∃ t, exec (.drw x y n) s = .next t ∧
    (∀ r c, t.fb.cell r c ≠ s.fb.cell r c ↔ SpriteCovers s (s.reg x).toNat (s.reg y).toNat n.toNat r c) ∧
    ((t.reg 0xF = 1 ∧ ∃ r c, s.fb.cell r c = true ∧ SpriteCovers s (s.reg x).toNat (s.reg y).toNat n.toNat r c) ∨
     (t.reg 0xF = 0 ∧ ¬ ∃ r c, s.fb.cell r c = true ∧ SpriteCovers s (s.reg x).toNat (s.reg y).toNat n.toNat r c)) ∧
    (∀ k, k ≠ 0xF → t.reg k = s.reg k) ∧ t.dirty = !s.dirty ∧
    t = { s with fb := t.fb, V := t.V, dirty := t.dirty } ∧ ∀ a, t.readByte a = s.readByte a

/-- R121: drawing the same sprite twice at the same place restores the framebuffer, and the second draw reports
whether the first drew a cell that was clear. -/
def Obligations.DrawTwiceRestores : Prop :=
  ∀ (s : State) (x y n : Nibble), x ≠ 0xF → y ≠ 0xF → ∃ t u, exec (.drw x y n) s = .next t ∧
    exec (.drw x y n) t = .next u ∧ u.fb = s.fb ∧ u.dirty = s.dirty ∧
    (u.reg 0xF = 1 ↔ ∃ r c, s.fb.cell r c = false ∧ SpriteCovers s (s.reg x).toNat (s.reg y).toNat n.toNat r c)

/-! ### Keys and timers (spec/44_keys_timers.md) -/

/-- R130, R131 (key number modulo 16 by D13: log entry 12): the key skips. -/
def Obligations.KeySkipResults : Prop :=
  ∀ (s : State) (x : Nibble),
    AnswersPc (.skp x) s (if s.keys.getLsbD ((s.reg x).toNat % 16) = true then s.pc + 2 else s.pc) ∧
    AnswersPc (.sknp x) s (if s.keys.getLsbD ((s.reg x).toNat % 16) = true then s.pc else s.pc + 2)

/-- R133 (the lowest held key by D12: log entry 12): with a key held `WKEY` stores the lowest one's number. -/
def Obligations.WaitKeyCompletes : Prop :=
  ∀ (s : State) (x : Nibble) (j : Nat), j < 16 → s.keys.getLsbD j = true → (∀ i < j, s.keys.getLsbD i = false) →
    AnswersRegs (.wkey x) s (fun k => if k = x then BitVec.ofNat 8 j else s.reg k)

/-- R133: with no key held a step of `WKEY` leaves the whole state as it was. -/
def Obligations.WaitKeyWaits : Prop :=
  ∀ (s : State) (x : Nibble), decodeWord s.fetchWord = .ok (.wkey x) → s.keys = 0 → step s = .next s

/-- Section 2: the timer instructions, with their encodings: what each loads, and that it changes nothing else. -/
def Obligations.TimerInstructionResults : Prop :=
  ∀ (s : State) (x : Nibble),
    decodeWord (nibbles 0xF x 0x0 0x7) = .ok (.gdt x) ∧ decodeWord (nibbles 0xF x 0x1 0x5) = .ok (.sdt x) ∧
    decodeWord (nibbles 0xF x 0x1 0x8) = .ok (.sst x) ∧
    AnswersRegs (.gdt x) s (fun k => if k = x then s.DT else s.reg k) ∧
    exec (.sdt x) s = .next { s with DT := s.reg x } ∧
    exec (.sst x) s = .next { s with ST := s.reg x }

/-- Section 3: both timers one lower with a floor at 0, nothing else. -/
def Obligations.TimerTickResult : Prop :=
  ∀ s : State, ∃ t, transact .timerTick s = .next t ∧ t.DT.toNat = s.DT.toNat - 1 ∧ t.ST.toNat = s.ST.toNat - 1 ∧
    t = { s with DT := t.DT, ST := t.ST }

/-- spec/70_reset_and_hazards.md R165: `SDT` then a tick, and a tick then `SDT`. -/
def Obligations.SetTimerAndTickSerialise : Prop :=
  ∀ (s : State) (x : Nibble), decodeWord s.fetchWord = .ok (.sdt x) →
    (∃ t, runSchedule [.step, .timerTick] s = .next t ∧ t.DT.toNat = (s.reg x).toNat - 1) ∧
    (∃ t, runSchedule [.timerTick, .step] s = .next t ∧ t.DT = s.reg x)

/-- spec/70_reset_and_hazards.md R165 and spec/44_keys_timers.md R136: a tick commutes with every step that runs no
timer instruction. -/
def Obligations.TickCommutesWithOtherSteps : Prop :=
  ∀ s t : State, (∀ i, decodeWord s.fetchWord = .ok i → mnemonic i ∉ ["GDT", "SDT", "SST"]) → step s = .next t →
    step (timerTick s) = .next (timerTick t)

/-! ### Frames and whole-machine rules -/

/-- spec/10_state.md section 1: each piece of state is written only by the instructions its row names, and the key
snapshot by none. The record of reports and the count of draws are the model's own fields (log entries 3, 2): a report is
recorded by the two instructions of spec/60_exceptions.md section 1 only (D9, D10: log entry 15), a byte drawn by `RND` only. -/
def Obligations.StateWrittenOnlyByNamed : Prop :=
  ∀ (i : Instr) (s t : State), exec i s = .next t →
    (t.V ≠ s.V → mnemonic i ∈ ["LDI", "ADDI", "MOV", "OR", "AND", "XOR", "ADD", "SUB", "SHR", "SUBN", "SHL", "RND", "GDT",
      "WKEY", "LDM", "ADDA", "DRW"]) ∧
    (t.I ≠ s.I → mnemonic i ∈ ["LDA", "ADDA", "FNT"]) ∧
    (t.stack ≠ s.stack → mnemonic i ∈ ["CALL"]) ∧
    (t.sp ≠ s.sp → mnemonic i ∈ ["CALL", "RET"]) ∧
    (t.DT ≠ s.DT → mnemonic i ∈ ["SDT"]) ∧
    (t.ST ≠ s.ST → mnemonic i ∈ ["SST"]) ∧
    (t.mem ≠ s.mem → mnemonic i ∈ ["BCD", "STM"]) ∧
    (t.fb ≠ s.fb → mnemonic i ∈ ["CLS", "DRW"]) ∧
    (t.dirty ≠ s.dirty → mnemonic i ∈ ["CLS", "DRW"]) ∧
    (t.draws ≠ s.draws → mnemonic i ∈ ["RND"]) ∧
    (t.diags ≠ s.diags → mnemonic i ∈ ["CALL", "RET"]) ∧
    (t.pc ≠ s.pc → mnemonic i ∈ ["RET", "JP", "CALL", "SEI", "SNEI", "SE", "SNE", "JPV", "SKP", "SKNP", "WKEY"]) ∧
    t.keys = s.keys

/-- spec/20_memory.md R30, spec/10_state.md R18: an instruction that is neither `BCD` nor `STM` leaves every byte of
memory as it was. -/
def Obligations.OnlyStoresChangeMemory : Prop :=
  ∀ (i : Instr) (s t : State), exec i s = .next t → mnemonic i ∉ ["BCD", "STM"] → ∀ a, t.readByte a = s.readByte a

/-- spec/10_state.md R10, R11: a register an instruction may not write keeps its value. -/
def Obligations.OtherRegistersKept : Prop :=
  ∀ (i : Instr) (s t : State) (k : Nibble), exec i s = .next t → ¬ mayWrite i k → t.reg k = s.reg k

/-- spec/10_state.md R11: no instruction but the seven writes `VF` unless its `x` field is 15; a side-effect write
stores 0 or 1 (but for the shifted flag of `SHL VF`, R103, D7: log entry 9). -/
def Obligations.FlagRegisterDiscipline : Prop :=
  ∀ (i : Instr) (s t : State), exec i s = .next t →
    (mnemonic i ∉ ["ADD", "SUB", "SHR", "SUBN", "SHL", "ADDA", "DRW"] → fieldX (encode i) ≠ 0xF →
      t.reg 0xF = s.reg 0xF) ∧
    (mnemonic i ∈ ["ADD", "SUB", "SHR", "SUBN", "SHL", "ADDA", "DRW"] →
      ¬ (mnemonic i = "SHL" ∧ fieldX (encode i) = 0xF) → t.reg 0xF = 0 ∨ t.reg 0xF = 1)

/-- spec/10_state.md R17: no instruction reads the sound timer: two states that differ in it alone step to states
that differ in it at most. -/
def Obligations.SoundTimerIsNeverRead : Prop :=
  ∀ (s t : State) (v : Byte), step s = .next t →
    ∃ t', step { s with ST := v } = .next t' ∧ { t' with ST := 0 } = { t with ST := 0 }

/-- spec/10_state.md R20: no instruction reads `dirty`; each step keeps it in both states or inverts it in both. -/
def Obligations.DirtyIsNeverRead : Prop :=
  ∀ (s t : State) (b : Bool), step s = .next t →
    step { s with dirty := b } = .next { t with dirty := b ^^ (t.dirty ^^ s.dirty) }

/-- spec/10_state.md R21: the key snapshot is read by `SKP`, `SKNP` and `WKEY` only, and no step at all, theirs
included, writes it. -/
def Obligations.KeysReadOnlyByThree : Prop :=
  (∀ (s t : State) (k : Word), (∀ i, decodeWord s.fetchWord = .ok i → mnemonic i ∉ ["SKP", "SKNP", "WKEY"]) →
    step s = .next t → step { s with keys := k } = .next { t with keys := k }) ∧
  ∀ s t : State, step s = .next t → t.keys = s.keys

/-- spec/10_state.md R14: what the slots at `sp` and above hold is never read: it can change nothing but those slots. -/
def Obligations.StaleStackSlotsAreNeverRead : Prop :=
  ∀ (s t : State) (st : Vector Word 16), (∀ k (hk : k < 16), k < s.sp.val → st[k] = s.stack[k]) → step s = .next t →
    ∃ t', step { s with stack := st } = .next t' ∧ t' = { t with stack := t'.stack } ∧
      ∀ k (hk : k < 16), k < t.sp.val → t'.stack[k] = t.stack[k]

/-! ### Reset, the invariant and schedules -/

/-- spec/70_reset_and_hazards.md R160 with no program (zero by D17, font bytes by D16: log entries 14, 6; `keys`, no
report, no draw: log entries 1, 3, 2): the state after reset. -/
def Obligations.ResetState : Prop :=
  (∀ k, State.reset.reg k = 0) ∧ State.reset.I = 0 ∧ State.reset.pc = 0x0200 ∧ State.reset.sp = 0 ∧
  (∀ k (hk : k < 16), State.reset.stack[k] = 0) ∧ State.reset.DT = 0 ∧ State.reset.ST = 0 ∧
  (∀ r c, State.reset.fb.cell r c = false) ∧ State.reset.dirty = false ∧ State.reset.keys = 0 ∧
  State.reset.clean ∧ State.reset.draws = 0 ∧ font.length = 80 ∧
  ∀ a < 4096, State.reset.readByte a = if h : a < font.length then font[a] else 0

/-- spec/70_reset_and_hazards.md R160, R162 (D17, D18: log entries 14, 16): a program that fits is loaded at 0x200 over
the reset contents; one that does not leaves the block as it was. -/
def Obligations.ProgramLoad : Prop :=
  (∀ (s : State) (p : List Byte), p.length ≤ 3584 → ∃ t, transact (.reset p) s = .next t ∧
    (∀ k (hk : k < p.length), t.readByte (0x200 + k) = p[k]) ∧
    (∀ a < 4096, (a < 0x200 ∨ 0x200 + p.length ≤ a) → t.readByte a = State.reset.readByte a) ∧
    t = { State.reset with mem := t.mem, keys := s.keys, diags := s.diags, draws := s.draws }) ∧
  (∀ (s : State) (p : List Byte), 3584 < p.length → transact (.reset p) s = .next s ∧ reply (.reset p) s = .tooLong)

/-- spec/60_exceptions.md R155 (D21, D24: log entry 4): the host's reads have no effect and show the state as it
stands, and `SetKeys` replaces the snapshot and nothing else. -/
def Obligations.HostReadsAndKeys : Prop :=
  ∀ (s : State) (k : Word),
    transact .readFrame s = .next s ∧ reply .readFrame s = .frame s.fb s.dirty ∧
    transact .observe s = .next s ∧
    reply .observe s = .observation { V := s.V, I := s.I, pc := s.pc, sp := s.sp, stack := s.stack, DT := s.DT, ST := s.ST,
                                      mem := s.mem } ∧
    transact (.setKeys k) s = .next { s with keys := k }

/-- The reset state meets the invariant. -/
def Obligations.ResetMeetsInv : Prop := State.reset.Inv

/-- From every state that meets the invariant, a step answers a state that meets it (spec/10_state.md R12,
spec/60_exceptions.md R140; the canonical form of memory is the model's). -/
def Obligations.StepKeepsInv : Prop := ∀ s t : State, s.Inv → step s = .next t → t.Inv

/-- spec/00_scope.md R6, spec/20_memory.md R38: every schedule of transactions, from every state that meets the
invariant, runs to its end and answers a state that meets it. -/
def Obligations.SchedulesAnswerAndKeepInv : Prop :=
  ∀ (xs : List Transaction) (s : State), s.Inv → ∃ t, runSchedule xs s = .next t ∧ t.Inv

/-- spec/60_exceptions.md section 4, `Diag`, and section 1 (D21, and the record the model keeps: log entries 4, 3): the
host is told, by the `Step` that raises them, exactly the reports the step adds to the record, at most one. -/
def Obligations.StepReplyCarriesReports : Prop :=
  ∀ s : State, ∃ t reports, transact .step s = .next t ∧ reply .step s = .stepped reports ∧
    t.diags = s.diags ++ reports ∧ reports.length ≤ 1
end

