-- ==== Sys2Proof/Laws/Bits.lean ====
section
/-! SUPPORT. The fields of a word and the words of fields: each builder of Decode read back by each field. -/
namespace Sys2Proof

theorem toNat_fieldOp (w : Word) : (fieldOp w).toNat = w.toNat / 4096 := by
  have := w.isLt
  simp only [fieldOp, BitVec.extractLsb'_toNat, Nat.shiftRight_eq_div_pow]
  omega

theorem toNat_fieldX (w : Word) : (fieldX w).toNat = w.toNat / 256 % 16 := by
  simp [fieldX, BitVec.extractLsb'_toNat, Nat.shiftRight_eq_div_pow]

theorem toNat_fieldY (w : Word) : (fieldY w).toNat = w.toNat / 16 % 16 := by
  simp [fieldY, BitVec.extractLsb'_toNat, Nat.shiftRight_eq_div_pow]

theorem toNat_fieldN (w : Word) : (fieldN w).toNat = w.toNat % 16 := by
  simp [fieldN, BitVec.extractLsb'_toNat]

theorem toNat_fieldNN (w : Word) : (fieldNN w).toNat = w.toNat % 256 := by
  simp [fieldNN, BitVec.extractLsb'_toNat]

theorem toNat_fieldNNN (w : Word) : (fieldNNN w).toNat = w.toNat % 4096 := by
  simp [fieldNNN, BitVec.extractLsb'_toNat]

theorem toNat_highByte (w : Word) : (highByte w).toNat = w.toNat / 256 := by
  have := w.isLt
  simp only [highByte, BitVec.extractLsb'_toNat, Nat.shiftRight_eq_div_pow]
  omega

theorem toNat_lowByte (w : Word) : (lowByte w).toNat = w.toNat % 256 := by
  simp [lowByte, BitVec.extractLsb'_toNat]

/-- One bit vector after another, as a number. -/
theorem toNat_append_eq (n m : Nat) (a : BitVec n) (b : BitVec m) :
    (a ++ b).toNat = a.toNat * 2 ^ m + b.toNat := by
  rw [BitVec.toNat_append, ← Nat.shiftLeft_add_eq_or_of_lt b.isLt, Nat.shiftLeft_eq]

theorem toNat_wordOfBytes (hi lo : Byte) : (wordOfBytes hi lo).toNat = hi.toNat * 256 + lo.toNat :=
  toNat_append_eq 8 8 hi lo

theorem toNat_wordA (op : Nibble) (nnn : Addr12) : (wordA op nnn).toNat = op.toNat * 4096 + nnn.toNat :=
  toNat_append_eq 4 12 op nnn

theorem toNat_wordXI (op x : Nibble) (nn : Byte) :
    (wordXI op x nn).toNat = op.toNat * 4096 + x.toNat * 256 + nn.toNat := by
  refine (toNat_append_eq (4 + 4) 8 (op ++ x) nn).trans ?_
  rw [toNat_append_eq 4 4]
  omega

theorem toNat_nibbles (a b c d : Nibble) :
    (nibbles a b c d).toNat = a.toNat * 4096 + b.toNat * 256 + c.toNat * 16 + d.toNat := by
  refine (toNat_append_eq (4 + 4 + 4) 4 (a ++ b ++ c) d).trans ?_
  rw [toNat_append_eq (4 + 4) 4, toNat_append_eq 4 4]
  omega

/-! ### The bytes of a word -/

@[simp] theorem highByte_wordOfBytes (hi lo : Byte) : highByte (wordOfBytes hi lo) = hi := by
  apply BitVec.eq_of_toNat_eq
  rw [toNat_highByte, toNat_wordOfBytes]
  omega

@[simp] theorem lowByte_wordOfBytes (hi lo : Byte) : lowByte (wordOfBytes hi lo) = lo := by
  apply BitVec.eq_of_toNat_eq
  rw [toNat_lowByte, toNat_wordOfBytes]
  omega

@[simp] theorem wordOfBytes_highByte_lowByte (w : Word) : wordOfBytes (highByte w) (lowByte w) = w := by
  apply BitVec.eq_of_toNat_eq
  rw [toNat_wordOfBytes, toNat_highByte, toNat_lowByte]
  omega

/-! ### The fields of each builder -/

@[simp] theorem fieldOp_nibbles (a b c d : Nibble) : fieldOp (nibbles a b c d) = a := by
  apply BitVec.eq_of_toNat_eq
  rw [toNat_fieldOp, toNat_nibbles]
  omega

@[simp] theorem fieldX_nibbles (a b c d : Nibble) : fieldX (nibbles a b c d) = b := by
  apply BitVec.eq_of_toNat_eq
  rw [toNat_fieldX, toNat_nibbles]
  omega

@[simp] theorem fieldY_nibbles (a b c d : Nibble) : fieldY (nibbles a b c d) = c := by
  apply BitVec.eq_of_toNat_eq
  rw [toNat_fieldY, toNat_nibbles]
  omega

@[simp] theorem fieldN_nibbles (a b c d : Nibble) : fieldN (nibbles a b c d) = d := by
  apply BitVec.eq_of_toNat_eq
  rw [toNat_fieldN, toNat_nibbles]
  omega

@[simp] theorem fieldOp_wordA (op : Nibble) (nnn : Addr12) : fieldOp (wordA op nnn) = op := by
  apply BitVec.eq_of_toNat_eq
  rw [toNat_fieldOp, toNat_wordA]
  omega

@[simp] theorem fieldNNN_wordA (op : Nibble) (nnn : Addr12) : fieldNNN (wordA op nnn) = nnn := by
  apply BitVec.eq_of_toNat_eq
  rw [toNat_fieldNNN, toNat_wordA]
  omega

@[simp] theorem fieldOp_wordXI (op x : Nibble) (nn : Byte) : fieldOp (wordXI op x nn) = op := by
  apply BitVec.eq_of_toNat_eq
  rw [toNat_fieldOp, toNat_wordXI]
  omega

@[simp] theorem fieldX_wordXI (op x : Nibble) (nn : Byte) : fieldX (wordXI op x nn) = x := by
  apply BitVec.eq_of_toNat_eq
  rw [toNat_fieldX, toNat_wordXI]
  omega

@[simp] theorem fieldNN_wordXI (op x : Nibble) (nn : Byte) : fieldNN (wordXI op x nn) = nn := by
  apply BitVec.eq_of_toNat_eq
  rw [toNat_fieldNN, toNat_wordXI]
  omega

/-- `nn` is the two low digits (spec/30_encoding.md R51). -/
theorem toNat_fieldNN_nibbles (a b c d : Nibble) : (fieldNN (nibbles a b c d)).toNat = c.toNat * 16 + d.toNat := by
  rw [toNat_fieldNN, toNat_nibbles]
  omega

/-! ### A word built again from its fields -/

theorem nibbles_fields (w : Word) : nibbles (fieldOp w) (fieldX w) (fieldY w) (fieldN w) = w := by
  apply BitVec.eq_of_toNat_eq
  rw [toNat_nibbles, toNat_fieldOp, toNat_fieldX, toNat_fieldY, toNat_fieldN]
  omega

theorem wordA_fields (w : Word) : wordA (fieldOp w) (fieldNNN w) = w := by
  apply BitVec.eq_of_toNat_eq
  rw [toNat_wordA, toNat_fieldOp, toNat_fieldNNN]
  omega

theorem wordXI_fields (w : Word) : wordXI (fieldOp w) (fieldX w) (fieldNN w) = w := by
  apply BitVec.eq_of_toNat_eq
  rw [toNat_wordXI, toNat_fieldOp, toNat_fieldX, toNat_fieldNN]
  omega

theorem toNat_fieldNN_digits (w : Word) : (fieldNN w).toNat = (fieldY w).toNat * 16 + (fieldN w).toNat := by
  rw [toNat_fieldNN, toNat_fieldY, toNat_fieldN]
  omega

end Sys2Proof
end

