-- ==== Sys2Proof/Laws/State.lean ====
section
/-! SUPPORT. One lemma per field per named update of the state, true by rfl: no later proof unfolds a record update. -/
namespace Sys2Proof.Machine

@[simp] theorem State.setVF_eq (s : State) (v : Byte) : s.setVF v = s.setReg 0xF v := rfl
@[simp] theorem State.advance_eq (s : State) : s.advance = s.setPc (s.pc + 2) := rfl
@[simp] theorem State.skip_eq (s : State) : s.skip = s.setPc (s.pc + 2) := rfl

/-! ### setReg -/

@[simp] theorem State.setReg_V (s : State) (k : Nibble) (v : Byte) : (s.setReg k v).V = s.V.set k.toNat v k.isLt := rfl
@[simp] theorem State.setReg_I (s : State) (k : Nibble) (v : Byte) : (s.setReg k v).I = s.I := rfl
@[simp] theorem State.setReg_pc (s : State) (k : Nibble) (v : Byte) : (s.setReg k v).pc = s.pc := rfl
@[simp] theorem State.setReg_stack (s : State) (k : Nibble) (v : Byte) : (s.setReg k v).stack = s.stack := rfl
@[simp] theorem State.setReg_sp (s : State) (k : Nibble) (v : Byte) : (s.setReg k v).sp = s.sp := rfl
@[simp] theorem State.setReg_DT (s : State) (k : Nibble) (v : Byte) : (s.setReg k v).DT = s.DT := rfl
@[simp] theorem State.setReg_ST (s : State) (k : Nibble) (v : Byte) : (s.setReg k v).ST = s.ST := rfl
@[simp] theorem State.setReg_mem (s : State) (k : Nibble) (v : Byte) : (s.setReg k v).mem = s.mem := rfl
@[simp] theorem State.setReg_fb (s : State) (k : Nibble) (v : Byte) : (s.setReg k v).fb = s.fb := rfl
@[simp] theorem State.setReg_dirty (s : State) (k : Nibble) (v : Byte) : (s.setReg k v).dirty = s.dirty := rfl
@[simp] theorem State.setReg_keys (s : State) (k : Nibble) (v : Byte) : (s.setReg k v).keys = s.keys := rfl
@[simp] theorem State.setReg_diags (s : State) (k : Nibble) (v : Byte) : (s.setReg k v).diags = s.diags := rfl
@[simp] theorem State.setReg_draws (s : State) (k : Nibble) (v : Byte) : (s.setReg k v).draws = s.draws := rfl

/-! ### setI -/

@[simp] theorem State.setI_V (s : State) (v : Word) : (s.setI v).V = s.V := rfl
@[simp] theorem State.setI_I (s : State) (v : Word) : (s.setI v).I = v := rfl
@[simp] theorem State.setI_pc (s : State) (v : Word) : (s.setI v).pc = s.pc := rfl
@[simp] theorem State.setI_stack (s : State) (v : Word) : (s.setI v).stack = s.stack := rfl
@[simp] theorem State.setI_sp (s : State) (v : Word) : (s.setI v).sp = s.sp := rfl
@[simp] theorem State.setI_DT (s : State) (v : Word) : (s.setI v).DT = s.DT := rfl
@[simp] theorem State.setI_ST (s : State) (v : Word) : (s.setI v).ST = s.ST := rfl
@[simp] theorem State.setI_mem (s : State) (v : Word) : (s.setI v).mem = s.mem := rfl
@[simp] theorem State.setI_fb (s : State) (v : Word) : (s.setI v).fb = s.fb := rfl
@[simp] theorem State.setI_dirty (s : State) (v : Word) : (s.setI v).dirty = s.dirty := rfl
@[simp] theorem State.setI_keys (s : State) (v : Word) : (s.setI v).keys = s.keys := rfl
@[simp] theorem State.setI_diags (s : State) (v : Word) : (s.setI v).diags = s.diags := rfl
@[simp] theorem State.setI_draws (s : State) (v : Word) : (s.setI v).draws = s.draws := rfl

/-! ### setPc -/

@[simp] theorem State.setPc_V (s : State) (v : Word) : (s.setPc v).V = s.V := rfl
@[simp] theorem State.setPc_I (s : State) (v : Word) : (s.setPc v).I = s.I := rfl
@[simp] theorem State.setPc_pc (s : State) (v : Word) : (s.setPc v).pc = v := rfl
@[simp] theorem State.setPc_stack (s : State) (v : Word) : (s.setPc v).stack = s.stack := rfl
@[simp] theorem State.setPc_sp (s : State) (v : Word) : (s.setPc v).sp = s.sp := rfl
@[simp] theorem State.setPc_DT (s : State) (v : Word) : (s.setPc v).DT = s.DT := rfl
@[simp] theorem State.setPc_ST (s : State) (v : Word) : (s.setPc v).ST = s.ST := rfl
@[simp] theorem State.setPc_mem (s : State) (v : Word) : (s.setPc v).mem = s.mem := rfl
@[simp] theorem State.setPc_fb (s : State) (v : Word) : (s.setPc v).fb = s.fb := rfl
@[simp] theorem State.setPc_dirty (s : State) (v : Word) : (s.setPc v).dirty = s.dirty := rfl
@[simp] theorem State.setPc_keys (s : State) (v : Word) : (s.setPc v).keys = s.keys := rfl
@[simp] theorem State.setPc_diags (s : State) (v : Word) : (s.setPc v).diags = s.diags := rfl
@[simp] theorem State.setPc_draws (s : State) (v : Word) : (s.setPc v).draws = s.draws := rfl

/-! ### setDT -/

@[simp] theorem State.setDT_V (s : State) (v : Byte) : (s.setDT v).V = s.V := rfl
@[simp] theorem State.setDT_I (s : State) (v : Byte) : (s.setDT v).I = s.I := rfl
@[simp] theorem State.setDT_pc (s : State) (v : Byte) : (s.setDT v).pc = s.pc := rfl
@[simp] theorem State.setDT_stack (s : State) (v : Byte) : (s.setDT v).stack = s.stack := rfl
@[simp] theorem State.setDT_sp (s : State) (v : Byte) : (s.setDT v).sp = s.sp := rfl
@[simp] theorem State.setDT_DT (s : State) (v : Byte) : (s.setDT v).DT = v := rfl
@[simp] theorem State.setDT_ST (s : State) (v : Byte) : (s.setDT v).ST = s.ST := rfl
@[simp] theorem State.setDT_mem (s : State) (v : Byte) : (s.setDT v).mem = s.mem := rfl
@[simp] theorem State.setDT_fb (s : State) (v : Byte) : (s.setDT v).fb = s.fb := rfl
@[simp] theorem State.setDT_dirty (s : State) (v : Byte) : (s.setDT v).dirty = s.dirty := rfl
@[simp] theorem State.setDT_keys (s : State) (v : Byte) : (s.setDT v).keys = s.keys := rfl
@[simp] theorem State.setDT_diags (s : State) (v : Byte) : (s.setDT v).diags = s.diags := rfl
@[simp] theorem State.setDT_draws (s : State) (v : Byte) : (s.setDT v).draws = s.draws := rfl

/-! ### setST -/

@[simp] theorem State.setST_V (s : State) (v : Byte) : (s.setST v).V = s.V := rfl
@[simp] theorem State.setST_I (s : State) (v : Byte) : (s.setST v).I = s.I := rfl
@[simp] theorem State.setST_pc (s : State) (v : Byte) : (s.setST v).pc = s.pc := rfl
@[simp] theorem State.setST_stack (s : State) (v : Byte) : (s.setST v).stack = s.stack := rfl
@[simp] theorem State.setST_sp (s : State) (v : Byte) : (s.setST v).sp = s.sp := rfl
@[simp] theorem State.setST_DT (s : State) (v : Byte) : (s.setST v).DT = s.DT := rfl
@[simp] theorem State.setST_ST (s : State) (v : Byte) : (s.setST v).ST = v := rfl
@[simp] theorem State.setST_mem (s : State) (v : Byte) : (s.setST v).mem = s.mem := rfl
@[simp] theorem State.setST_fb (s : State) (v : Byte) : (s.setST v).fb = s.fb := rfl
@[simp] theorem State.setST_dirty (s : State) (v : Byte) : (s.setST v).dirty = s.dirty := rfl
@[simp] theorem State.setST_keys (s : State) (v : Byte) : (s.setST v).keys = s.keys := rfl
@[simp] theorem State.setST_diags (s : State) (v : Byte) : (s.setST v).diags = s.diags := rfl
@[simp] theorem State.setST_draws (s : State) (v : Byte) : (s.setST v).draws = s.draws := rfl

/-! ### writeByte -/

@[simp] theorem State.writeByte_V (s : State) (a : Nat) (v : Byte) : (s.writeByte a v).V = s.V := rfl
@[simp] theorem State.writeByte_I (s : State) (a : Nat) (v : Byte) : (s.writeByte a v).I = s.I := rfl
@[simp] theorem State.writeByte_pc (s : State) (a : Nat) (v : Byte) : (s.writeByte a v).pc = s.pc := rfl
@[simp] theorem State.writeByte_stack (s : State) (a : Nat) (v : Byte) : (s.writeByte a v).stack = s.stack := rfl
@[simp] theorem State.writeByte_sp (s : State) (a : Nat) (v : Byte) : (s.writeByte a v).sp = s.sp := rfl
@[simp] theorem State.writeByte_DT (s : State) (a : Nat) (v : Byte) : (s.writeByte a v).DT = s.DT := rfl
@[simp] theorem State.writeByte_ST (s : State) (a : Nat) (v : Byte) : (s.writeByte a v).ST = s.ST := rfl
@[simp] theorem State.writeByte_mem (s : State) (a : Nat) (v : Byte) : (s.writeByte a v).mem = s.mem.put (a % Config.memSize) v := rfl
@[simp] theorem State.writeByte_fb (s : State) (a : Nat) (v : Byte) : (s.writeByte a v).fb = s.fb := rfl
@[simp] theorem State.writeByte_dirty (s : State) (a : Nat) (v : Byte) : (s.writeByte a v).dirty = s.dirty := rfl
@[simp] theorem State.writeByte_keys (s : State) (a : Nat) (v : Byte) : (s.writeByte a v).keys = s.keys := rfl
@[simp] theorem State.writeByte_diags (s : State) (a : Nat) (v : Byte) : (s.writeByte a v).diags = s.diags := rfl
@[simp] theorem State.writeByte_draws (s : State) (a : Nat) (v : Byte) : (s.writeByte a v).draws = s.draws := rfl

/-! ### setFb -/

@[simp] theorem State.setFb_V (s : State) (v : Framebuffer) : (s.setFb v).V = s.V := rfl
@[simp] theorem State.setFb_I (s : State) (v : Framebuffer) : (s.setFb v).I = s.I := rfl
@[simp] theorem State.setFb_pc (s : State) (v : Framebuffer) : (s.setFb v).pc = s.pc := rfl
@[simp] theorem State.setFb_stack (s : State) (v : Framebuffer) : (s.setFb v).stack = s.stack := rfl
@[simp] theorem State.setFb_sp (s : State) (v : Framebuffer) : (s.setFb v).sp = s.sp := rfl
@[simp] theorem State.setFb_DT (s : State) (v : Framebuffer) : (s.setFb v).DT = s.DT := rfl
@[simp] theorem State.setFb_ST (s : State) (v : Framebuffer) : (s.setFb v).ST = s.ST := rfl
@[simp] theorem State.setFb_mem (s : State) (v : Framebuffer) : (s.setFb v).mem = s.mem := rfl
@[simp] theorem State.setFb_fb (s : State) (v : Framebuffer) : (s.setFb v).fb = v := rfl
@[simp] theorem State.setFb_dirty (s : State) (v : Framebuffer) : (s.setFb v).dirty = s.dirty := rfl
@[simp] theorem State.setFb_keys (s : State) (v : Framebuffer) : (s.setFb v).keys = s.keys := rfl
@[simp] theorem State.setFb_diags (s : State) (v : Framebuffer) : (s.setFb v).diags = s.diags := rfl
@[simp] theorem State.setFb_draws (s : State) (v : Framebuffer) : (s.setFb v).draws = s.draws := rfl

/-! ### toggleDirty -/

@[simp] theorem State.toggleDirty_V (s : State) : (s.toggleDirty).V = s.V := rfl
@[simp] theorem State.toggleDirty_I (s : State) : (s.toggleDirty).I = s.I := rfl
@[simp] theorem State.toggleDirty_pc (s : State) : (s.toggleDirty).pc = s.pc := rfl
@[simp] theorem State.toggleDirty_stack (s : State) : (s.toggleDirty).stack = s.stack := rfl
@[simp] theorem State.toggleDirty_sp (s : State) : (s.toggleDirty).sp = s.sp := rfl
@[simp] theorem State.toggleDirty_DT (s : State) : (s.toggleDirty).DT = s.DT := rfl
@[simp] theorem State.toggleDirty_ST (s : State) : (s.toggleDirty).ST = s.ST := rfl
@[simp] theorem State.toggleDirty_mem (s : State) : (s.toggleDirty).mem = s.mem := rfl
@[simp] theorem State.toggleDirty_fb (s : State) : (s.toggleDirty).fb = s.fb := rfl
@[simp] theorem State.toggleDirty_dirty (s : State) : (s.toggleDirty).dirty = !s.dirty := rfl
@[simp] theorem State.toggleDirty_keys (s : State) : (s.toggleDirty).keys = s.keys := rfl
@[simp] theorem State.toggleDirty_diags (s : State) : (s.toggleDirty).diags = s.diags := rfl
@[simp] theorem State.toggleDirty_draws (s : State) : (s.toggleDirty).draws = s.draws := rfl

/-! ### countDraw -/

@[simp] theorem State.countDraw_V (s : State) : (s.countDraw).V = s.V := rfl
@[simp] theorem State.countDraw_I (s : State) : (s.countDraw).I = s.I := rfl
@[simp] theorem State.countDraw_pc (s : State) : (s.countDraw).pc = s.pc := rfl
@[simp] theorem State.countDraw_stack (s : State) : (s.countDraw).stack = s.stack := rfl
@[simp] theorem State.countDraw_sp (s : State) : (s.countDraw).sp = s.sp := rfl
@[simp] theorem State.countDraw_DT (s : State) : (s.countDraw).DT = s.DT := rfl
@[simp] theorem State.countDraw_ST (s : State) : (s.countDraw).ST = s.ST := rfl
@[simp] theorem State.countDraw_mem (s : State) : (s.countDraw).mem = s.mem := rfl
@[simp] theorem State.countDraw_fb (s : State) : (s.countDraw).fb = s.fb := rfl
@[simp] theorem State.countDraw_dirty (s : State) : (s.countDraw).dirty = s.dirty := rfl
@[simp] theorem State.countDraw_keys (s : State) : (s.countDraw).keys = s.keys := rfl
@[simp] theorem State.countDraw_diags (s : State) : (s.countDraw).diags = s.diags := rfl
@[simp] theorem State.countDraw_draws (s : State) : (s.countDraw).draws = s.draws + 1 := rfl

/-! ### raiseDiag -/

@[simp] theorem State.raiseDiag_V (s : State) (kind : DiagKind) (w : Word) : (s.raiseDiag kind w).V = s.V := rfl
@[simp] theorem State.raiseDiag_I (s : State) (kind : DiagKind) (w : Word) : (s.raiseDiag kind w).I = s.I := rfl
@[simp] theorem State.raiseDiag_pc (s : State) (kind : DiagKind) (w : Word) : (s.raiseDiag kind w).pc = s.pc := rfl
@[simp] theorem State.raiseDiag_stack (s : State) (kind : DiagKind) (w : Word) : (s.raiseDiag kind w).stack = s.stack := rfl
@[simp] theorem State.raiseDiag_sp (s : State) (kind : DiagKind) (w : Word) : (s.raiseDiag kind w).sp = s.sp := rfl
@[simp] theorem State.raiseDiag_DT (s : State) (kind : DiagKind) (w : Word) : (s.raiseDiag kind w).DT = s.DT := rfl
@[simp] theorem State.raiseDiag_ST (s : State) (kind : DiagKind) (w : Word) : (s.raiseDiag kind w).ST = s.ST := rfl
@[simp] theorem State.raiseDiag_mem (s : State) (kind : DiagKind) (w : Word) : (s.raiseDiag kind w).mem = s.mem := rfl
@[simp] theorem State.raiseDiag_fb (s : State) (kind : DiagKind) (w : Word) : (s.raiseDiag kind w).fb = s.fb := rfl
@[simp] theorem State.raiseDiag_dirty (s : State) (kind : DiagKind) (w : Word) : (s.raiseDiag kind w).dirty = s.dirty := rfl
@[simp] theorem State.raiseDiag_keys (s : State) (kind : DiagKind) (w : Word) : (s.raiseDiag kind w).keys = s.keys := rfl
@[simp] theorem State.raiseDiag_diags (s : State) (kind : DiagKind) (w : Word) : (s.raiseDiag kind w).diags = s.diags ++ [⟨kind, w, s.pc⟩] := rfl
@[simp] theorem State.raiseDiag_draws (s : State) (kind : DiagKind) (w : Word) : (s.raiseDiag kind w).draws = s.draws := rfl

end Sys2Proof.Machine
end

