-- ==== Sys2Proof/Laws/Memory.lean ====
section
/-! SUPPORT. What the memory operations do, and that each keeps the canonical form. -/
namespace Sys2Proof.Machine

/-! ### One cell -/

theorem Memory.get_cons (m : Memory) (a b : Nat) (v : Byte) (h : m.get a = Memory.unlisted a) :
    (Memory.cons a v m).get b = if a = b then v else m.get b := by
  unfold Memory.cons
  by_cases hv : v = Memory.unlisted a
  · by_cases hab : a = b
    · subst hab; simp [hv, h]
    · simp [hv, hab]
  · simp [hv, Memory.get]

/-- An address below every listed one is unlisted. -/
theorem Memory.get_of_lt (m : Memory) (a : Nat) (h : ∀ p ∈ m, a < p.1) : m.get a = Memory.unlisted a := by
  induction m with
  | nil => rfl
  | cons p rest ih =>
    have hp := h p (by simp)
    rw [Memory.get, if_neg (by omega)]
    exact ih fun q hq => h q (by simp [hq])

/-- A read after a write: the written byte at its address, the old byte elsewhere. -/
theorem Memory.get_put (m : Memory) (a b : Nat) (v : Byte) (hm : m.Pairwise (fun p q => p.1 < q.1)) :
    (m.put a v).get b = if a = b then v else m.get b := by
  induction m with
  | nil => exact Memory.get_cons [] a b v rfl
  | cons p rest ih =>
    rw [List.pairwise_cons] at hm
    rw [Memory.put]
    split
    · refine Memory.get_cons (p :: rest) a b v (Memory.get_of_lt _ _ ?_)
      intro q hq
      rcases List.mem_cons.mp hq with rfl | hq
      · assumption
      · have := hm.1 q hq; omega
    · split
      next heq =>
        rw [Memory.get_cons _ _ _ _ (Memory.get_of_lt _ _ (by rw [heq]; exact hm.1))]
        by_cases hab : a = b
        · simp [hab]
        · rw [Memory.get, if_neg hab, if_neg hab, if_neg (by omega)]
      next hne =>
        rw [Memory.get, Memory.get]
        by_cases hpb : p.1 = b
        · rw [if_pos hpb, if_pos hpb, if_neg (by omega)]
        · rw [if_neg hpb, if_neg hpb, ih hm.2]

/-! ### The canonical form -/

theorem Memory.wf_nil : Memory.wf [] := by simp [Memory.wf]

theorem Memory.wf_tail {p : Host.Cell} {m : Memory} (h : Memory.wf (p :: m)) : Memory.wf m :=
  ⟨(List.pairwise_cons.mp h.1).2, fun q hq => h.2 q (by simp [hq])⟩

theorem Memory.wf_cons (m : Memory) (a : Nat) (v : Byte) (h : Memory.wf m) (ha : a < Config.memSize)
    (hlt : ∀ p ∈ m, a < p.1) : Memory.wf (Memory.cons a v m) := by
  unfold Memory.cons
  split
  · exact h
  · refine ⟨List.pairwise_cons.mpr ⟨hlt, h.1⟩, ?_⟩
    rintro p hp
    rcases List.mem_cons.mp hp with rfl | hp
    · exact ⟨ha, by assumption⟩
    · exact h.2 p hp

/-- Every address the written memory lists is the written one or was listed before. -/
theorem Memory.mem_put (m : Memory) (a : Nat) (v : Byte) (p : Host.Cell) (hp : p ∈ m.put a v) :
    p = (a, v) ∨ p ∈ m := by
  induction m with
  | nil =>
    rw [Memory.put, Memory.cons] at hp
    split at hp <;> simp_all
  | cons q rest ih =>
    rw [Memory.put] at hp
    split at hp
    · rw [Memory.cons] at hp
      split at hp <;> simp_all
    · split at hp
      · rw [Memory.cons] at hp
        split at hp
        · exact .inr (List.mem_cons_of_mem _ hp)
        · rcases List.mem_cons.mp hp with h | h
          · exact .inl h
          · exact .inr (List.mem_cons_of_mem _ h)
      · rcases List.mem_cons.mp hp with h | h
        · exact .inr (h ▸ List.mem_cons_self)
        · exact (ih h).imp_right (List.mem_cons_of_mem _)

/-- A write keeps the canonical form. -/
theorem Memory.wf_put (m : Memory) (a : Nat) (v : Byte) (h : Memory.wf m) (ha : a < Config.memSize) :
    Memory.wf (m.put a v) := by
  induction m with
  | nil => exact Memory.wf_cons [] a v h ha (by simp)
  | cons p rest ih =>
    have hlt := (List.pairwise_cons.mp h.1).1
    rw [Memory.put]
    split
    · refine Memory.wf_cons _ a v h ha fun q hq => ?_
      rcases List.mem_cons.mp hq with rfl | hq
      · assumption
      · have := hlt q hq; omega
    · split
      next heq => exact Memory.wf_cons _ a v (Memory.wf_tail h) ha (by rw [heq]; exact hlt)
      next hne =>
        have ih := ih (Memory.wf_tail h)
        refine ⟨List.pairwise_cons.mpr ⟨fun q hq => ?_, ih.1⟩, fun q hq => ?_⟩
        · rcases Memory.mem_put rest a v q hq with rfl | hq
          · change p.1 < a; omega
          · exact hlt q hq
        · rcases List.mem_cons.mp hq with rfl | hq
          · exact h.2 _ (by simp)
          · exact ih.2 q hq

/-! ### Bytes of the state -/

/-- The memory of the machine right after reset is in canonical form. -/
theorem State.reset_mem_wf : State.reset.mem.wf := Memory.wf_nil

/-- Addresses are taken modulo 4096 (spec/20_memory.md R31). -/
theorem State.readByte_mod (s : State) (a : Nat) : s.readByte (a % Config.memSize) = s.readByte a := by
  simp [State.readByte]

theorem State.writeByte_wf (s : State) (a : Nat) (v : Byte) (h : s.mem.wf) : (s.writeByte a v).mem.wf :=
  Memory.wf_put _ _ _ h (Nat.mod_lt _ (by decide))

/-- A read after a write (spec/20_memory.md R38). -/
theorem State.readByte_writeByte (s : State) (a b : Nat) (v : Byte) (h : s.mem.wf) :
    (s.writeByte a v).readByte b =
      if a % Config.memSize = b % Config.memSize then v else s.readByte b :=
  Memory.get_put _ _ _ _ h.1

/-! ### Several bytes -/

/-- Storing bytes changes memory and nothing else. -/
theorem State.storeBytes_eq (s : State) (a : Nat) (vs : List Byte) :
    s.storeBytes a vs = { s with mem := (s.storeBytes a vs).mem } := by
  induction vs generalizing s a with
  | nil => rfl
  | cons v vs ih => rw [State.storeBytes, ih]; rfl

theorem State.storeBytes_wf (s : State) (a : Nat) (vs : List Byte) (h : s.mem.wf) : (s.storeBytes a vs).mem.wf := by
  induction vs generalizing s a with
  | nil => exact h
  | cons v vs ih => exact ih _ _ (s.writeByte_wf a v h)

/-- A byte no stored byte's address reaches reads as before. -/
theorem State.readByte_storeBytes_other (s : State) (a b : Nat) (vs : List Byte) (h : s.mem.wf)
    (hb : ∀ k < vs.length, (a + k) % Config.memSize ≠ b % Config.memSize) :
    (s.storeBytes a vs).readByte b = s.readByte b := by
  induction vs generalizing s a with
  | nil => rfl
  | cons v vs ih =>
    rw [State.storeBytes, ih _ _ (s.writeByte_wf a v h), s.readByte_writeByte _ _ _ h, if_neg]
    · simpa using hb 0 (by simp)
    · intro k hk
      rw [show a + 1 + k = a + (k + 1) by omega]
      exact hb (k + 1) (by simpa using hk)

/-- The k-th of at most 4096 stored bytes is read back at its address (spec/20_memory.md R33: no sequence wraps onto
itself). -/
theorem State.readByte_storeBytes_self (s : State) (a : Nat) (vs : List Byte) (h : s.mem.wf)
    (hlen : vs.length ≤ Config.memSize) (k : Nat) (hk : k < vs.length) :
    (s.storeBytes a vs).readByte (a + k) = vs[k] := by
  induction vs generalizing s a k with
  | nil => simp at hk
  | cons v vs ih =>
    simp only [List.length_cons] at hlen hk
    rw [State.storeBytes]
    cases k with
    | zero =>
      rw [State.readByte_storeBytes_other _ _ _ _ (s.writeByte_wf a v h), s.readByte_writeByte _ _ _ h]
      · simp
      · intro j hj
        simp only [Config.memSize] at hlen ⊢
        omega
    | succ k =>
      have := ih _ (a + 1) (s.writeByte_wf a v h) (by omega) k (by omega)
      simpa [Nat.add_assoc, Nat.add_comm 1 k] using this

end Sys2Proof.Machine
end

