-- ==== Sys2Proof/Laws/Ops.lean ====
section
/-! SUPPORT. What each shared operation over registers, the call stack, the framebuffer and the keys can do. -/
namespace Sys2Proof.Machine

/-! ### Registers -/

theorem State.reg_setReg (s : State) (k j : Nibble) (v : Byte) :
    (s.setReg k v).reg j = if j = k then v else s.reg j := by
  simp only [State.reg, State.setReg, Vector.getElem_set]
  by_cases h : k = j
  · simp [h]
  · rw [if_neg (fun he => h (BitVec.eq_of_toNat_eq he)), if_neg (Ne.symm h)]

@[simp] theorem State.reg_setReg_self (s : State) (k : Nibble) (v : Byte) : (s.setReg k v).reg k = v := by
  rw [State.reg_setReg, if_pos rfl]

/-- Two states with the same register file have the same registers, and the other way round. -/
theorem State.V_ext (s t : State) : s.V = t.V ↔ ∀ k, s.reg k = t.reg k := by
  refine ⟨fun h k => by simp [State.reg, h], fun h => Vector.ext fun j hj => ?_⟩
  have := h (BitVec.ofNat 4 j)
  simpa [State.reg, Nat.mod_eq_of_lt hj] using this

theorem State.reg_reset (k : Nibble) : State.reset.reg k = 0 := by
  simp [State.reg, State.reset]

/-- Loading registers changes them and nothing else. -/
theorem State.loadRegs_eq (s : State) (a n : Nat) : s.loadRegs a n = { s with V := (s.loadRegs a n).V } := by
  induction n with
  | zero => rfl
  | succ n ih =>
    simp only [State.loadRegs, List.range_succ, List.foldl_append, List.foldl_cons, List.foldl_nil] at ih ⊢
    rw [ih]
    rfl

/-- Registers 0..n-1 hold the bytes from address `a`; the others keep their values (spec/42_index_memory.md R115). -/
theorem State.reg_loadRegs (s : State) (a n : Nat) (hn : n ≤ 16) (k : Nibble) :
    (s.loadRegs a n).reg k = if k.toNat < n then s.readByte (a + k.toNat) else s.reg k := by
  induction n with
  | zero => rfl
  | succ n ih =>
    have step : s.loadRegs a (n + 1) =
        (s.loadRegs a n).setReg (BitVec.ofNat 4 n) ((s.loadRegs a n).readByte (a + n)) := by
      simp [State.loadRegs, List.range_succ]
    have hmem : (s.loadRegs a n).readByte (a + n) = s.readByte (a + n) := by
      rw [State.loadRegs_eq]; rfl
    rw [step, State.reg_setReg, ih (by omega), hmem]
    by_cases hk : k.toNat = n
    · have : k = BitVec.ofNat 4 n := BitVec.eq_of_toNat_eq (by simp [hk]; omega)
      rw [if_pos this, if_pos (by omega), hk]
    · have : k ≠ BitVec.ofNat 4 n := fun h => hk (by rw [h]; simp; omega)
      rw [if_neg this]
      by_cases hlt : k.toNat < n
      · rw [if_pos hlt, if_pos (by omega)]
      · rw [if_neg hlt, if_neg (by omega)]

@[simp] theorem State.length_lowRegs (s : State) (n : Nat) : (s.lowRegs n).length = n := by simp [State.lowRegs]

theorem State.getElem_lowRegs (s : State) (n k : Nat) (hk : k < (s.lowRegs n).length) :
    (s.lowRegs n)[k] = s.reg (BitVec.ofNat 4 k) := by simp [State.lowRegs]

/-! ### Call stack -/

/-- A push is refused exactly when 16 entries are held (spec/10_state.md R15). -/
theorem State.push_eq_none (s : State) (v : Word) : s.push v = none ↔ s.sp = 16 := by
  have := s.sp.isLt
  simp only [State.push]
  split <;> simp [Fin.ext_iff] <;> omega

/-- A pop is refused exactly when no entry is held. -/
theorem State.pop_eq_none (s : State) : s.pop = none ↔ s.sp = 0 := by
  simp only [State.pop]
  split <;> simp only [reduceCtorEq, false_iff, true_iff, Fin.ext_iff, Fin.val_zero] <;> omega

/-- What a push does: the value in slot `sp`, one entry more, nothing else. -/
theorem State.push_cases {s t : State} {v : Word} (h : s.push v = some t) :
    s.sp.val < 16 ∧ t.sp.val = s.sp.val + 1 ∧
      (∀ k (hk : k < 16), t.stack[k] = if k = s.sp.val then v else s.stack[k]) ∧
      t = { s with stack := t.stack, sp := t.sp } := by
  simp only [State.push] at h
  split at h
  next hlt =>
    cases h
    refine ⟨hlt, rfl, fun k hk => ?_, rfl⟩
    simp only [Vector.getElem_set, eq_comm]
  next => cases h

/-- What a pop does: the last entry's value, one entry less, nothing else. -/
theorem State.pop_cases {s t : State} {v : Word} (h : s.pop = some (v, t)) :
    (∃ hk : s.sp.val - 1 < 16, 0 < s.sp.val ∧ v = s.stack[s.sp.val - 1]) ∧ t.sp.val = s.sp.val - 1 ∧
      t = { s with sp := t.sp } := by
  simp only [State.pop] at h
  split at h
  next hlt =>
    cases h
    exact ⟨⟨by omega, hlt, rfl⟩, rfl, rfl⟩
  next => cases h

/-- A push with a slot free, as an equation. -/
theorem State.push_of_lt (s : State) (v : Word) (h : s.sp.val < 16) :
    s.push v = some { s with stack := s.stack.set s.sp.val v h, sp := ⟨s.sp.val + 1, by omega⟩ } := dif_pos h

theorem State.push_full (s : State) (v : Word) (h : ¬ s.sp.val < 16) : s.push v = none := dif_neg h

/-- A pop with an entry held, as an equation. -/
theorem State.pop_of_pos (s : State) (h : 0 < s.sp.val) :
    s.pop = some (s.stack[s.sp.val - 1]'(by omega), { s with sp := ⟨s.sp.val - 1, by omega⟩ }) := dif_pos h

theorem State.pop_empty (s : State) (h : ¬ 0 < s.sp.val) : s.pop = none := dif_neg h

/-! ### What the multi-byte operations depend on -/

/-- The memory after a store depends on the memory before alone. -/
theorem State.storeBytes_mem_congr {s t : State} (h : s.mem = t.mem) (a : Nat) (vs : List Byte) :
    (s.storeBytes a vs).mem = (t.storeBytes a vs).mem := by
  induction vs generalizing s t a with
  | nil => exact h
  | cons v vs ih => exact ih (by simp [h]) _

/-- The registers after a load depend on the registers and the memory before alone. -/
theorem State.loadRegs_V_congr {s t : State} (h : s.mem = t.mem) (hV : s.V = t.V) (a n : Nat) (hn : n ≤ 16) :
    (s.loadRegs a n).V = (t.loadRegs a n).V := by
  rw [State.V_ext] at hV ⊢
  intro k
  rw [State.reg_loadRegs _ _ _ hn, State.reg_loadRegs _ _ _ hn, hV k, State.readByte, State.readByte, h]

/-! ### Framebuffer -/

theorem Framebuffer.cell_setCell (fb : Framebuffer) (r r' : Fin 32) (c c' : Fin 64) (b : Bool) :
    (fb.setCell r c b).cell r' c' = if r' = r ∧ c' = c then b else fb.cell r' c' := by
  simp only [Framebuffer.cell, Framebuffer.setCell, Vector.getElem_set]
  by_cases hr : r = r'
  · subst hr
    by_cases hc : c = c'
    · subst hc; simp
    · have : c.val ≠ c'.val := fun h => hc (Fin.ext h)
      simp [this, Ne.symm hc]
  · have : r.val ≠ r'.val := fun h => hr (Fin.ext h)
    simp [this, Ne.symm hr]

@[simp] theorem Framebuffer.cell_clear (r : Fin 32) (c : Fin 64) : Framebuffer.clear.cell r c = false := by
  simp [Framebuffer.cell, Framebuffer.clear]

/-- Two framebuffers with the same cells are equal. -/
theorem Framebuffer.ext_cell {f g : Framebuffer} (h : ∀ r c, f.cell r c = g.cell r c) : f = g :=
  Vector.ext fun r hr => Vector.ext fun c hc => h ⟨r, hr⟩ ⟨c, hc⟩

/-- Plotting cells that are pairwise different inverts exactly those, and notes a collision exactly when one of them
was set (spec/43_display.md R121: within one instruction no cell is visited twice). -/
theorem foldl_plot (cells : List (Fin 32 × Fin 64)) (fb : Framebuffer) (hit : Bool) (hnd : cells.Nodup) :
    (∀ r c, (cells.foldl plot (fb, hit)).1.cell r c = (fb.cell r c ^^ decide ((r, c) ∈ cells))) ∧
    (cells.foldl plot (fb, hit)).2 = (hit || cells.any fun p => fb.cell p.1 p.2) := by
  induction cells generalizing fb hit with
  | nil => simp
  | cons p ps ih =>
    rw [List.nodup_cons] at hnd
    have hcell : ∀ r c, (plot (fb, hit) p).1.cell r c = (fb.cell r c ^^ decide ((r, c) = p)) := by
      intro r c
      simp only [plot, Framebuffer.cell_setCell, Prod.ext_iff]
      by_cases h : r = p.1 ∧ c = p.2
      · simp [h]
      · simp [h]
    obtain ⟨hc, hh⟩ := ih (plot (fb, hit) p).1 (plot (fb, hit) p).2 hnd.2
    refine ⟨fun r c => ?_, ?_⟩
    · rw [List.foldl_cons, hc, hcell]
      by_cases h : (r, c) = p
      · have : (r, c) ∉ ps := h ▸ hnd.1
        simp [h, hnd.1]
      · simp [h]
    · rw [List.foldl_cons, hh]
      have : (ps.any fun q => (plot (fb, hit) p).1.cell q.1 q.2) = ps.any fun q => fb.cell q.1 q.2 := by
        rw [Bool.eq_iff_iff, List.any_eq_true, List.any_eq_true]
        refine exists_congr fun q => and_congr_right fun hq => ?_
        have : ((q.1, q.2) : Fin 32 × Fin 64) ≠ p := fun h => hnd.1 (h ▸ hq)
        simp [hcell, this]
      rw [this]
      simp [plot, Bool.or_assoc]

/-- The cells a sprite's set bits name (spec/43_display.md R121). -/
theorem State.mem_spriteCells (s : State) (x0 y0 n : Nat) (p : Fin 32 × Fin 64) :
    p ∈ s.spriteCells x0 y0 n ↔ ∃ row < n, ∃ col < 8,
      (s.readByte (s.base + row)).getLsbD (7 - col) = true ∧ p = (cellRow y0 row, cellCol x0 col) := by
  simp only [State.spriteCells, rowCells, List.mem_flatMap, List.mem_range, List.mem_map, List.mem_filter]
  constructor
  · rintro ⟨row, hr, col, ⟨hc, hb⟩, rfl⟩; exact ⟨row, hr, col, hc, hb, rfl⟩
  · rintro ⟨row, hr, col, hc, hb, rfl⟩; exact ⟨row, hr, col, ⟨hc, hb⟩, rfl⟩

/-- No cell is named twice by a sprite of at most 15 rows: 8 columns < 64, 15 rows < 32 (spec/43_display.md R121). -/
theorem State.nodup_spriteCells (s : State) (x0 y0 n : Nat) (hn : n ≤ 32) : (s.spriteCells x0 y0 n).Nodup := by
  refine List.nodup_flatMap.mpr ⟨fun row _ => ?_, ?_⟩
  · refine (List.nodup_map_iff_inj_on (List.nodup_range.filter _)).mpr ?_
    intro c hc d hd hcd
    simp only [List.mem_filter, List.mem_range] at hc hd
    simp only [cellCol, Prod.mk.injEq, Fin.mk.injEq, true_and] at hcd
    omega
  · refine List.Pairwise.imp_of_mem ?_ (List.nodup_range (n := n))
    intro a b ha hb hne
    simp only [List.mem_range] at ha hb
    intro p hpa hpb
    simp only [rowCells, List.mem_map] at hpa hpb
    obtain ⟨_, _, rfl⟩ := hpa
    obtain ⟨_, _, h⟩ := hpb
    simp only [cellRow, Prod.mk.injEq, Fin.mk.injEq] at h
    omega

/-! ### Keys -/

/-- No least key exactly when no key is held (spec/44_keys_timers.md R133). -/
theorem leastKey_eq_none (keys : Word) : leastKey keys = none ↔ keys = 0 := by
  simp only [leastKey, List.find?_eq_none, List.mem_range, Bool.not_eq_true]
  constructor
  · intro h
    exact BitVec.eq_of_getLsbD_eq fun i hi => by simp [h i hi]
  · rintro rfl i _; simp

/-- The least key is held and every lower one is not. -/
theorem leastKey_eq_some (keys : Word) (k : Nat) :
    leastKey keys = some k ↔ k < 16 ∧ keys.getLsbD k = true ∧ ∀ j < k, keys.getLsbD j = false := by
  rw [leastKey, List.find?_range_eq_some]
  simp only [Bool.not_eq_true', List.mem_range]
  tauto

/-! ### Skips -/

/-- A skip taken moves `pc` by 2, one not taken changes nothing (spec/40_flow.md R71). -/
theorem State.skipIf_eq (s : State) (c : Bool) : s.skipIf c = s.setPc (if c then s.pc + 2 else s.pc) := by
  cases c <;> rfl

end Sys2Proof.Machine
end

