-- ==== Sys2Proof/Laws/Exec.lean ====
section
/-! SUPPORT. What any instruction can do to the record of reports, said once, and that every instruction answers a next
state: the case splits over the constructors that later proofs cite instead of making them again. -/
namespace Sys2Proof.Machine

/-- Every instruction answers a next state from every state (spec/40_flow.md R70: a step runs to completion). -/
theorem exec_answers_next (i : Instr) (s : State) : ∃ t, exec i s = .next t := by
  cases i
  case call nnn => simp only [exec, execCall]; split <;> exact ⟨_, rfl⟩
  case ret x => simp only [exec, execRet]; split <;> exact ⟨_, rfl⟩
  case wkey x => simp only [exec, execWkey]; split <;> exact ⟨_, rfl⟩
  all_goals exact ⟨_, rfl⟩

/-- An instruction leaves the record as it was, or is a `CALL` on a full stack or a `RET` on an empty one, which only
adds one report (spec/60_exceptions.md R142 to R145). -/
theorem exec_reports {i : Instr} {s t : State} (h : exec i s = .next t) :
    t.diags = s.diags ∨
    (∃ nnn, i = .call nnn ∧ s.sp = 16 ∧ t = s.raiseDiag .stackOverflow (encode i)) ∨
    ∃ x, i = .ret x ∧ s.sp = 0 ∧ t = s.raiseDiag .stackUnderflow (encode i) := by
  cases i
  case call nnn =>
    simp only [exec, execCall] at h
    cases hp : s.push s.pc with
    | none => rw [hp] at h; cases h; exact .inr (.inl ⟨nnn, rfl, (State.push_eq_none _ _).1 hp, rfl⟩)
    | some u => rw [hp] at h; cases h; left; rw [(State.push_cases hp).2.2.2]; rfl
  case ret x =>
    simp only [exec, execRet] at h
    cases hp : s.pop with
    | none => rw [hp] at h; cases h; exact .inr (.inr ⟨x, rfl, (State.pop_eq_none _).1 hp, rfl⟩)
    | some u => obtain ⟨v, u⟩ := u; rw [hp] at h; cases h; left; rw [(State.pop_cases hp).2.2]; rfl
  case bcd x => cases h; left; rw [State.storeBytes_eq]
  case stm x => cases h; left; rw [State.storeBytes_eq]
  case ldm x => cases h; left; rw [State.loadRegs_eq]
  case wkey x => simp only [exec, execWkey] at h; left; split at h <;> cases h <;> rfl
  case sei x nn => simp only [exec, execSei, State.skipIf_eq] at h; cases h; exact .inl rfl
  case snei x nn => simp only [exec, execSnei, State.skipIf_eq] at h; cases h; exact .inl rfl
  case se x y n => simp only [exec, execSe, State.skipIf_eq] at h; cases h; exact .inl rfl
  case sne x y n => simp only [exec, execSne, State.skipIf_eq] at h; cases h; exact .inl rfl
  case skp x => simp only [exec, execSkp, State.skipIf_eq] at h; cases h; exact .inl rfl
  case sknp x => simp only [exec, execSknp, State.skipIf_eq] at h; cases h; exact .inl rfl
  all_goals cases h; exact .inl rfl

end Sys2Proof.Machine
end

