-- ==== Sys2Proof/Laws/PerInstr.lean ====
section
/-! SUPPORT. The per-instruction family RowMatch: the word of every instruction satisfies the condition of its own row
of the opcode map (spec/30_encoding.md R54). -/
namespace Sys2Proof.Laws

/-! ### The bits a mask of the map keeps -/

/-- Words digit by digit: the conjunction of two words is that of their digits. -/
theorem nibbles_and (a b c d e f g h : Nibble) :
    nibbles a b c d &&& nibbles e f g h = nibbles (a &&& e) (b &&& f) (c &&& g) (d &&& h) := by
  change (a ++ b ++ c ++ d : BitVec (4 + 4 + 4 + 4)) &&& (e ++ f ++ g ++ h) = (a &&& e) ++ (b &&& f) ++ (c &&& g) ++ (d &&& h)
  rw [BitVec.and_append, BitVec.and_append, BitVec.and_append]

/-- A digit under a mask digit of ones, and under one of zeros. -/
theorem and_F (a : Nibble) : a &&& 0xF = a ∧ a &&& 0x0 = 0 := by revert a; decide

/-- Mask 0xF000 keeps the family digit. -/
theorem and_F000 (w : Word) : w &&& 0xF000 = nibbles (fieldOp w) 0 0 0 := by
  conv_lhs => rw [← nibbles_fields w, show (0xF000 : Word) = nibbles 0xF 0 0 0 by decide, nibbles_and]
  simp only [and_F]

/-- Mask 0xF0FF keeps the family digit and `nn`. -/
theorem and_F0FF (w : Word) : w &&& 0xF0FF = nibbles (fieldOp w) 0 (fieldY w) (fieldN w) := by
  conv_lhs => rw [← nibbles_fields w, show (0xF0FF : Word) = nibbles 0xF 0 0xF 0xF by decide, nibbles_and]
  simp only [and_F]

/-- Mask 0xF00F keeps the family digit and `n`. -/
theorem and_F00F (w : Word) : w &&& 0xF00F = nibbles (fieldOp w) 0 0 (fieldN w) := by
  conv_lhs => rw [← nibbles_fields w, show (0xF00F : Word) = nibbles 0xF 0 0 0xF by decide, nibbles_and]
  simp only [and_F]

/-- A row with mask 0xF000 reads the family digit alone. -/
theorem selects_F000 (m : String) (p w : Word) :
    OpcodeRow.selects ⟨m, 0xF000, p⟩ w = (nibbles (fieldOp w) 0 0 0 == p) := by
  rw [← and_F000]; rfl

/-- A row with mask 0xF0FF reads the family digit and `nn`. -/
theorem selects_F0FF (m : String) (p w : Word) :
    OpcodeRow.selects ⟨m, 0xF0FF, p⟩ w = (nibbles (fieldOp w) 0 (fieldY w) (fieldN w) == p) := by
  rw [← and_F0FF]; rfl

/-- A row with mask 0xF00F reads the family digit and `n`. -/
theorem selects_F00F (m : String) (p w : Word) :
    OpcodeRow.selects ⟨m, 0xF00F, p⟩ w = (nibbles (fieldOp w) 0 0 (fieldN w) == p) := by
  rw [← and_F00F]; rfl

end Sys2Proof.Laws

namespace Sys2Proof.Laws.RowMatch

/-- The instruction's word is selected by a row of the map that has the instruction's mnemonic. -/
def Statement (i : Instr) : Prop :=
  ∃ r ∈ opcodeRows, r.mnemonic = mnemonic i ∧ r.selects (encode i) = true

theorem cls (x : Nibble) : Statement (.cls x) :=
  ⟨⟨"CLS", 0xF0FF, 0x0000⟩, by decide, rfl, by simp only [selects_F0FF, encode, fieldOp_nibbles, fieldN_nibbles, fieldY_nibbles]; decide⟩

theorem ret (x : Nibble) : Statement (.ret x) :=
  ⟨⟨"RET", 0xF0FF, 0x000E⟩, by decide, rfl, by simp only [selects_F0FF, encode, fieldOp_nibbles, fieldN_nibbles, fieldY_nibbles]; decide⟩

theorem jp (nnn : Addr12) : Statement (.jp nnn) :=
  ⟨⟨"JP", 0xF000, 0x1000⟩, by decide, rfl, by simp only [selects_F000, encode, fieldOp_wordA]; decide⟩

theorem call (nnn : Addr12) : Statement (.call nnn) :=
  ⟨⟨"CALL", 0xF000, 0x2000⟩, by decide, rfl, by simp only [selects_F000, encode, fieldOp_wordA]; decide⟩

theorem sei (x : Nibble) (nn : Byte) : Statement (.sei x nn) :=
  ⟨⟨"SEI", 0xF000, 0x3000⟩, by decide, rfl, by simp only [selects_F000, encode, fieldOp_wordXI]; decide⟩

theorem snei (x : Nibble) (nn : Byte) : Statement (.snei x nn) :=
  ⟨⟨"SNEI", 0xF000, 0x4000⟩, by decide, rfl, by simp only [selects_F000, encode, fieldOp_wordXI]; decide⟩

theorem se (x y n : Nibble) : Statement (.se x y n) :=
  ⟨⟨"SE", 0xF000, 0x5000⟩, by decide, rfl, by simp only [selects_F000, encode, fieldOp_nibbles]; decide⟩

theorem ldi (x : Nibble) (nn : Byte) : Statement (.ldi x nn) :=
  ⟨⟨"LDI", 0xF000, 0x6000⟩, by decide, rfl, by simp only [selects_F000, encode, fieldOp_wordXI]; decide⟩

theorem addi (x : Nibble) (nn : Byte) : Statement (.addi x nn) :=
  ⟨⟨"ADDI", 0xF000, 0x7000⟩, by decide, rfl, by simp only [selects_F000, encode, fieldOp_wordXI]; decide⟩

theorem mov (x y : Nibble) : Statement (.mov x y) :=
  ⟨⟨"MOV", 0xF00F, 0x8000⟩, by decide, rfl, by simp only [selects_F00F, encode, fieldOp_nibbles, fieldN_nibbles]; decide⟩

theorem or (x y : Nibble) : Statement (.or x y) :=
  ⟨⟨"OR", 0xF00F, 0x8001⟩, by decide, rfl, by simp only [selects_F00F, encode, fieldOp_nibbles, fieldN_nibbles]; decide⟩

theorem and (x y : Nibble) : Statement (.and x y) :=
  ⟨⟨"AND", 0xF00F, 0x8002⟩, by decide, rfl, by simp only [selects_F00F, encode, fieldOp_nibbles, fieldN_nibbles]; decide⟩

theorem xor (x y : Nibble) : Statement (.xor x y) :=
  ⟨⟨"XOR", 0xF00F, 0x8003⟩, by decide, rfl, by simp only [selects_F00F, encode, fieldOp_nibbles, fieldN_nibbles]; decide⟩

theorem add (x y : Nibble) : Statement (.add x y) :=
  ⟨⟨"ADD", 0xF00F, 0x8004⟩, by decide, rfl, by simp only [selects_F00F, encode, fieldOp_nibbles, fieldN_nibbles]; decide⟩

theorem sub (x y : Nibble) : Statement (.sub x y) :=
  ⟨⟨"SUB", 0xF00F, 0x8005⟩, by decide, rfl, by simp only [selects_F00F, encode, fieldOp_nibbles, fieldN_nibbles]; decide⟩

theorem shr (x y : Nibble) : Statement (.shr x y) :=
  ⟨⟨"SHR", 0xF00F, 0x8006⟩, by decide, rfl, by simp only [selects_F00F, encode, fieldOp_nibbles, fieldN_nibbles]; decide⟩

theorem subn (x y : Nibble) : Statement (.subn x y) :=
  ⟨⟨"SUBN", 0xF00F, 0x8007⟩, by decide, rfl, by simp only [selects_F00F, encode, fieldOp_nibbles, fieldN_nibbles]; decide⟩

theorem shl (x y : Nibble) : Statement (.shl x y) :=
  ⟨⟨"SHL", 0xF00F, 0x800E⟩, by decide, rfl, by simp only [selects_F00F, encode, fieldOp_nibbles, fieldN_nibbles]; decide⟩

theorem sne (x y n : Nibble) : Statement (.sne x y n) :=
  ⟨⟨"SNE", 0xF000, 0x9000⟩, by decide, rfl, by simp only [selects_F000, encode, fieldOp_nibbles]; decide⟩

theorem lda (nnn : Addr12) : Statement (.lda nnn) :=
  ⟨⟨"LDA", 0xF000, 0xA000⟩, by decide, rfl, by simp only [selects_F000, encode, fieldOp_wordA]; decide⟩

theorem jpv (nnn : Addr12) : Statement (.jpv nnn) :=
  ⟨⟨"JPV", 0xF000, 0xB000⟩, by decide, rfl, by simp only [selects_F000, encode, fieldOp_wordA]; decide⟩

theorem rnd (x : Nibble) (nn : Byte) : Statement (.rnd x nn) :=
  ⟨⟨"RND", 0xF000, 0xC000⟩, by decide, rfl, by simp only [selects_F000, encode, fieldOp_wordXI]; decide⟩

theorem drw (x y n : Nibble) : Statement (.drw x y n) :=
  ⟨⟨"DRW", 0xF000, 0xD000⟩, by decide, rfl, by simp only [selects_F000, encode, fieldOp_nibbles]; decide⟩

theorem skp (x : Nibble) : Statement (.skp x) :=
  ⟨⟨"SKP", 0xF0FF, 0xE09E⟩, by decide, rfl, by simp only [selects_F0FF, encode, fieldOp_nibbles, fieldN_nibbles, fieldY_nibbles]; decide⟩

theorem sknp (x : Nibble) : Statement (.sknp x) :=
  ⟨⟨"SKNP", 0xF0FF, 0xE0A1⟩, by decide, rfl, by simp only [selects_F0FF, encode, fieldOp_nibbles, fieldN_nibbles, fieldY_nibbles]; decide⟩

theorem gdt (x : Nibble) : Statement (.gdt x) :=
  ⟨⟨"GDT", 0xF0FF, 0xF007⟩, by decide, rfl, by simp only [selects_F0FF, encode, fieldOp_nibbles, fieldN_nibbles, fieldY_nibbles]; decide⟩

theorem wkey (x : Nibble) : Statement (.wkey x) :=
  ⟨⟨"WKEY", 0xF0FF, 0xF00A⟩, by decide, rfl, by simp only [selects_F0FF, encode, fieldOp_nibbles, fieldN_nibbles, fieldY_nibbles]; decide⟩

theorem sdt (x : Nibble) : Statement (.sdt x) :=
  ⟨⟨"SDT", 0xF0FF, 0xF015⟩, by decide, rfl, by simp only [selects_F0FF, encode, fieldOp_nibbles, fieldN_nibbles, fieldY_nibbles]; decide⟩

theorem sst (x : Nibble) : Statement (.sst x) :=
  ⟨⟨"SST", 0xF0FF, 0xF018⟩, by decide, rfl, by simp only [selects_F0FF, encode, fieldOp_nibbles, fieldN_nibbles, fieldY_nibbles]; decide⟩

theorem adda (x : Nibble) : Statement (.adda x) :=
  ⟨⟨"ADDA", 0xF0FF, 0xF01E⟩, by decide, rfl, by simp only [selects_F0FF, encode, fieldOp_nibbles, fieldN_nibbles, fieldY_nibbles]; decide⟩

theorem fnt (x : Nibble) : Statement (.fnt x) :=
  ⟨⟨"FNT", 0xF0FF, 0xF029⟩, by decide, rfl, by simp only [selects_F0FF, encode, fieldOp_nibbles, fieldN_nibbles, fieldY_nibbles]; decide⟩

theorem bcd (x : Nibble) : Statement (.bcd x) :=
  ⟨⟨"BCD", 0xF0FF, 0xF033⟩, by decide, rfl, by simp only [selects_F0FF, encode, fieldOp_nibbles, fieldN_nibbles, fieldY_nibbles]; decide⟩

theorem stm (x : Nibble) : Statement (.stm x) :=
  ⟨⟨"STM", 0xF0FF, 0xF055⟩, by decide, rfl, by simp only [selects_F0FF, encode, fieldOp_nibbles, fieldN_nibbles, fieldY_nibbles]; decide⟩

theorem ldm (x : Nibble) : Statement (.ldm x) :=
  ⟨⟨"LDM", 0xF0FF, 0xF065⟩, by decide, rfl, by simp only [selects_F0FF, encode, fieldOp_nibbles, fieldN_nibbles, fieldY_nibbles]; decide⟩

end Sys2Proof.Laws.RowMatch
end

