-- ==== Sys2Proof/Tests/Slice0.lean ====
section
/-! SUPPORT. Tests: the WellFormed checks, the decoding of a word of every instruction written out from
spec/30_encoding.md R54, single steps with the results of spec/95_test_vectors.md (each test names its vector), and a
witness for the hypotheses of every statement that has some, at the boundary of each clause. -/
namespace Sys2Proof.Tests
open Sys2Proof Sys2Proof.Machine

/-! ### WellFormed: a term each check refuses -/

theorem test_canonical_refuses_cls : Instr.canonical (.cls 0xA) = false := by decide
theorem test_canonical_refuses_ret : Instr.canonical (.ret 0x7) = false := by decide
theorem test_canonical_refuses_se : Instr.canonical (.se 1 2 0xF) = false := by decide
theorem test_canonical_refuses_shr : Instr.canonical (.shr 3 0xA) = false := by decide
theorem test_canonical_refuses_shl : Instr.canonical (.shl 3 0xA) = false := by decide
theorem test_canonical_refuses_sne : Instr.canonical (.sne 1 2 1) = false := by decide
theorem test_canonical_admits : (Instr.se 1 2 0).canonical = true ∧ (Instr.drw 1 2 5).canonical = true := by decide

/-! ### Decoding: words written out digit by digit from the encoding column of R54 -/

theorem test_decode_cls : decodeTableWord 16 0x0000 = some (.cls 0) := by decide -- 0X00
theorem test_decode_ret : decodeTableWord 16 0x070E = some (.ret 7) := by decide -- 0X0E
theorem test_decode_jp : decodeTableWord 16 0x1ABC = some (.jp 0xABC) := by decide -- 1NNN
theorem test_decode_call : decodeTableWord 16 0x2300 = some (.call 0x300) := by decide -- 2NNN
theorem test_decode_sei : decodeTableWord 16 0x332A = some (.sei 3 0x2A) := by decide -- 3XNN
theorem test_decode_snei : decodeTableWord 16 0x432A = some (.snei 3 0x2A) := by decide -- 4XNN
theorem test_decode_se : decodeTableWord 16 0x512F = some (.se 1 2 0xF) := by decide -- 5XYN
theorem test_decode_ldi : decodeTableWord 16 0x6A2F = some (.ldi 0xA 0x2F) := by decide -- 6XNN
theorem test_decode_addi : decodeTableWord 16 0x7220 = some (.addi 2 0x20) := by decide -- 7XNN
theorem test_decode_mov : decodeTableWord 16 0x8340 = some (.mov 3 4) := by decide -- 8XY0
theorem test_decode_or : decodeTableWord 16 0x8121 = some (.or 1 2) := by decide -- 8XY1
theorem test_decode_and : decodeTableWord 16 0x8122 = some (.and 1 2) := by decide -- 8XY2
theorem test_decode_xor : decodeTableWord 16 0x8123 = some (.xor 1 2) := by decide -- 8XY3
theorem test_decode_add : decodeTableWord 16 0x81F4 = some (.add 1 0xF) := by decide -- 8XY4
theorem test_decode_sub : decodeTableWord 16 0x8F15 = some (.sub 0xF 1) := by decide -- 8XY5
theorem test_decode_shr : decodeTableWord 16 0x83A6 = some (.shr 3 0xA) := by decide -- 8XY6
theorem test_decode_subn : decodeTableWord 16 0x8127 = some (.subn 1 2) := by decide -- 8XY7
theorem test_decode_shl : decodeTableWord 16 0x830E = some (.shl 3 0) := by decide -- 8XYE
theorem test_decode_sne : decodeTableWord 16 0x9120 = some (.sne 1 2 0) := by decide -- 9XYN
theorem test_decode_lda : decodeTableWord 16 0xA2F0 = some (.lda 0x2F0) := by decide -- ANNN
theorem test_decode_jpv : decodeTableWord 16 0xBFFF = some (.jpv 0xFFF) := by decide -- BNNN
theorem test_decode_rnd : decodeTableWord 16 0xC50F = some (.rnd 5 0x0F) := by decide -- CXNN
theorem test_decode_drw : decodeTableWord 16 0xD125 = some (.drw 1 2 5) := by decide -- DXYN
theorem test_decode_skp : decodeTableWord 16 0xE49E = some (.skp 4) := by decide -- EX9E
theorem test_decode_sknp : decodeTableWord 16 0xE4A1 = some (.sknp 4) := by decide -- EXA1
theorem test_decode_gdt : decodeTableWord 16 0xF507 = some (.gdt 5) := by decide -- FX07
theorem test_decode_wkey : decodeTableWord 16 0xF30A = some (.wkey 3) := by decide -- FX0A
theorem test_decode_sdt : decodeTableWord 16 0xF515 = some (.sdt 5) := by decide -- FX15
theorem test_decode_sst : decodeTableWord 16 0xF518 = some (.sst 5) := by decide -- FX18
theorem test_decode_adda : decodeTableWord 16 0xF21E = some (.adda 2) := by decide -- FX1E
theorem test_decode_fnt : decodeTableWord 16 0xF329 = some (.fnt 3) := by decide -- FX29
theorem test_decode_bcd : decodeTableWord 16 0xF433 = some (.bcd 4) := by decide -- FX33
theorem test_decode_stm : decodeTableWord 16 0xF155 = some (.stm 1) := by decide -- FX55
theorem test_decode_ldm : decodeTableWord 16 0xF265 = some (.ldm 2) := by decide -- FX65
/-- Words of every unknown region, X2, X4, X7, X8, X11, X13. -/
theorem test_decode_unknown : ([0x00E0, 0x0001, 0x8008, 0x812F, 0xE19F, 0xF175].map (decodeTableWord 16)) =
    [none, none, none, none, none, none] := by decide
theorem test_decode_truncated : decode [0x6A] = .error .truncated := by decide

/-! ### Single steps -/

/-- The registers named, set one after another. -/
def withRegs (s : State) (regs : List (Nibble × Byte)) : State := regs.foldl (fun t p => t.setReg p.1 p.2) s

/-- The start state of a vector: reset, the registers named, the word at 0x200. -/
def start (w : Nat) (regs : List (Nibble × Byte)) : State := (withRegs State.reset regs).withFetchWord 16 w

/-- One or two fields of the state after one step. -/
def after {α : Type} (s : State) (f : State → α) : Option α :=
  match step s with
  | .next t => some (f t)
  | .fault _ => none
  | .refused _ => none

/-- Two registers and `pc`. -/
def regsPc (j k : Nibble) (t : State) : Byte × Byte × Word := (t.reg j, t.reg k, t.pc)

/-- `pc`, `sp` and the record of reports. -/
def flow (t : State) : Word × Nat × List Diag := (t.pc, t.sp.val, t.diags)

/-- F2. -/
theorem test_jp : after (start 0x1ABD []) flow = some (0x0ABD, 0, []) := by decide
/-- F4. -/
theorem test_call_sixteenth : after { start 0x2300 [] with sp := 15, stack := Vector.replicate 16 0xDEAD }
    (fun t => (t.pc, t.sp.val, t.stack[15])) = some (0x0300, 16, 0x0202) := by decide
/-- F5. -/
theorem test_call_overflow : after { start 0x2300 [] with sp := 16 } flow = some (0x0202, 16, [⟨.stackOverflow, 0x2300, 0x0202⟩]) := by decide
/-- F7. -/
theorem test_ret_pops : after ({ State.reset with pc := 0x300, sp := 1, stack := Vector.replicate 16 0x0ABC }.withFetchWord 16 0x070E) flow = some (0x0ABC, 0, []) := by decide
/-- F8. -/
theorem test_ret_underflow : after ({ State.reset with pc := 0x300 }.withFetchWord 16 0x000E) flow = some (0x0302, 0, [⟨.stackUnderflow, 0x000E, 0x0302⟩]) := by decide
/-- F9. -/
theorem test_jpv : after (start 0xB300 [(0, 0x10)]) (regsPc 0 15) = some (0x10, 0x00, 0x0310) := by decide
/-- F10. -/
theorem test_jpv_unmasked : after (start 0xBFFF [(0, 0xFF)]) (regsPc 0 15) = some (0xFF, 0x00, 0x10FE) := by decide
/-- F11. -/
theorem test_sei_taken : after (start 0x332A [(3, 0x2A)]) (regsPc 3 15) = some (0x2A, 0x00, 0x0204) := by decide
/-- F12. -/
theorem test_sei_not_taken : after (start 0x332A [(3, 0x2B)]) (regsPc 3 15) = some (0x2B, 0x00, 0x0202) := by decide
/-- F13. -/
theorem test_snei_taken : after (start 0x4300 [(3, 0x2A)]) (regsPc 3 15) = some (0x2A, 0x00, 0x0204) := by decide
/-- F14. -/
theorem test_snei_not_taken : after (start 0x432A [(3, 0x2A)]) (regsPc 3 15) = some (0x2A, 0x00, 0x0202) := by decide
/-- F16. -/
theorem test_se_taken : after (start 0x512F [(1, 0x07), (2, 0x07)]) (regsPc 1 2) = some (0x07, 0x07, 0x0204) := by decide
/-- F17. -/
theorem test_se_not_taken : after (start 0x5120 [(1, 0x07), (2, 0x08)]) (regsPc 1 2) = some (0x07, 0x08, 0x0202) := by decide
/-- F19. -/
theorem test_sne_taken : after (start 0x9120 [(1, 0x07), (2, 0x08)]) (regsPc 1 2) = some (0x07, 0x08, 0x0204) := by decide
/-- F21. -/
theorem test_sne_not_taken : after (start 0x9330 [(3, 0x09)]) (regsPc 3 15) = some (0x09, 0x00, 0x0202) := by decide
/-- F26. -/
theorem test_fetch_straddles_both_wraps : after ({ State.reset with pc := 0xFFFF }.withFetchWord 16 0x6122) (fun t => (t.reg 1, t.pc, t.readByte 0)) = some (0x22, 0x0001, 0x22) := by decide
/-- F28. -/
theorem test_fetch_odd_pc : after ({ State.reset with pc := 0x0201 }.withFetchWord 16 0x6144) (fun t => (t.reg 1, t.pc)) = some (0x44, 0x0203) := by decide
/-- S8 and X1. -/
theorem test_unknown_word : after (start 0xFFFF []) flow = some (0x0202, 0, [⟨.unknownInstruction, 0xFFFF, 0x0202⟩]) := by decide
/-- S8: nothing but `pc` and the record changes. -/
theorem test_unknown_word_changes_nothing :
    after (start 0xFFFF []) id = some { start 0xFFFF [] with pc := 0x202, diags := [⟨.unknownInstruction, 0xFFFF, 0x202⟩] } := by decide
/-- A2. -/
theorem test_ldi : after (start 0x6F07 []) (regsPc 15 0) = some (0x07, 0x00, 0x0202) := by decide
/-- A3. -/
theorem test_addi_wraps_no_flag : after (start 0x7220 [(2, 0xF0)]) (regsPc 2 15) = some (0x10, 0x00, 0x0202) := by decide
/-- A5. -/
theorem test_addi_flag_register : after (start 0x7F02 [(15, 0xFF)]) (regsPc 15 0) = some (0x01, 0x00, 0x0202) := by decide
/-- A6. -/
theorem test_mov : after (start 0x8340 [(4, 0x99)]) (regsPc 3 4) = some (0x99, 0x99, 0x0202) := by decide
/-- A7. -/
theorem test_or : after (start 0x8121 [(1, 0x0F), (2, 0xF0), (15, 0x01)]) (regsPc 1 15) = some (0xFF, 0x01, 0x0202) := by decide
/-- A8. -/
theorem test_and : after (start 0x8122 [(1, 0x3C), (2, 0x0F), (15, 0x01)]) (regsPc 1 15) = some (0x0C, 0x01, 0x0202) := by decide
/-- A9. -/
theorem test_xor : after (start 0x8123 [(1, 0xFF), (2, 0x0F), (15, 0x01)]) (regsPc 1 15) = some (0xF0, 0x01, 0x0202) := by decide
/-- S1. -/
theorem test_add_carry : after (start 0x8124 [(1, 0xFF), (2, 0x01)]) (regsPc 1 15) = some (0x00, 0x01, 0x0202) := by decide
/-- A14. -/
theorem test_add_flag_register : after (start 0x8F14 [(15, 0xF0), (1, 0x20)]) (regsPc 15 1) = some (0x01, 0x20, 0x0202) := by decide
/-- S2. -/
theorem test_sub_borrow : after (start 0x8125 [(1, 0x01), (2, 0x02)]) (regsPc 1 15) = some (0xFF, 0x01, 0x0202) := by decide
/-- A18. -/
theorem test_sub_no_borrow : after (start 0x8125 [(1, 0x10), (2, 0x01), (15, 0x01)]) (regsPc 1 15) = some (0x0F, 0x00, 0x0202) := by decide
/-- A29. -/
theorem test_shr : after (start 0x83A6 [(3, 0xFE), (10, 0x55), (15, 0x01)]) (regsPc 3 15) = some (0x7F, 0x00, 0x0202) := by decide
/-- A33. -/
theorem test_shr_flag_register : after (start 0x8F06 [(15, 0xFF)]) (regsPc 15 0) = some (0x00, 0x00, 0x0202) := by decide
/-- A23. -/
theorem test_subn_borrow : after (start 0x8127 [(1, 0x05), (2, 0x03)]) (regsPc 1 15) = some (0xFE, 0x01, 0x0202) := by decide
/-- A27. -/
theorem test_subn_flag_register : after (start 0x8F17 [(15, 0x03), (1, 0x09)]) (regsPc 15 1) = some (0x00, 0x09, 0x0202) := by decide
/-- A36. -/
theorem test_shl : after (start 0x830E [(3, 0xFF)]) (regsPc 3 15) = some (0xFE, 0x01, 0x0202) := by decide
/-- A38. -/
theorem test_shl_flag_register : after (start 0x8F0E [(15, 0x80)]) (regsPc 15 0) = some (0x02, 0x00, 0x0202) := by decide
/-- A40 to A42, for whatever byte the source gives. -/
theorem test_rnd : after (start 0xC50F []) (fun t => (t.reg 5, t.draws)) = some (Config.randByte 0 &&& 0x0F, 1) := by rfl
/-- M2. -/
theorem test_lda : after (start 0xAFFF []) (fun t => (t.I, t.pc)) = some (0x0FFF, 0x0202) := by decide
/-- M3. -/
theorem test_adda_wraps : after { start 0xF21E [(2, 0x20)] with I := 0x0FF0 } (fun t => (t.I, t.reg 15)) = some (0x0010, 1) := by decide
/-- M7. -/
theorem test_adda_flag_register : after { start 0xFF1E [(15, 0x05)] with I := 0x0FFE } (fun t => (t.I, t.reg 15)) = some (0x0003, 1) := by decide
/-- M12. -/
theorem test_fnt_unmasked : after (start 0xF029 [(0, 0xFF)]) (fun t => t.I) = some 0x04FB := by decide
/-- S6. -/
theorem test_bcd : after { start 0xF433 [(4, 0xFF)] with I := 0x300 } (fun t => [t.readByte 0x300, t.readByte 0x301, t.readByte 0x302]) = some [2, 5, 5] := by decide
/-- M18. -/
theorem test_bcd_wraps : after { start 0xF433 [(4, 0x7B)] with I := 0xFFE } (fun t => [t.readByte 0xFFE, t.readByte 0xFFF, t.readByte 0]) = some [1, 2, 3] := by decide
/-- M19. -/
theorem test_stm : after { start 0xF155 [(0, 0x11), (1, 0x22), (2, 0x33)] with I := 0x300 }
    (fun t => (t.I, [t.readByte 0x300, t.readByte 0x301, t.readByte 0x302])) = some (0x300, [0x11, 0x22, 0]) := by decide
/-- M20. -/
theorem test_stm_wraps : after { start 0xF155 [(0, 0x11), (1, 0x22)] with I := 0xFFF }
    (fun t => [t.readByte 0xFFF, t.readByte 0, t.readByte 1]) = some [0x11, 0x22, 0x90] := by decide
/-- M22. -/
theorem test_ldm : after { (start 0xF265 [(3, 0x77)]).storeBytes 0x300 [0xAA, 0xBB, 0xCC, 0xDD] with I := 0x300 }
    (fun t => [t.reg 0, t.reg 1, t.reg 2, t.reg 3]) = some [0xAA, 0xBB, 0xCC, 0x77] := by decide
/-- M24. -/
theorem test_ldm_wraps : after { (start 0xF165 []).writeByte 0xFFF 0x5A with I := 0xFFF } (fun t => (t.reg 0, t.reg 1)) = some (0x5A, 0xF0) := by decide
/-- Some cells, as (row, column), with the flag and `dirty`. -/
def look (ps : List (Fin 32 × Fin 64)) (t : State) : List Bool × Byte × Bool :=
  (ps.map fun p => t.fb.cell p.1 p.2, t.reg 15, t.dirty)

/-- The start state with framebuffer cells set. -/
def withCells (s : State) (ps : List (Fin 32 × Fin 64)) : State :=
  s.setFb (ps.foldl (fun fb p => fb.setCell p.1 p.2 true) s.fb)

/-- B2. -/
theorem test_cls : after { withCells (start 0x0A00 []) [(0, 0), (5, 5), (31, 63)] with dirty := true }
    (look [(0, 0), (5, 5), (31, 63)]) = some ([false, false, false], 0, false) := by decide
/-- B10. -/
theorem test_drw_collision_flag_register_origin : after { withCells ((start 0xDF11 [(15, 0x0A), (1, 0x03)]).writeByte 0x300 0x80) [(3, 10), (3, 3)] with I := 0x300 }
    (look [(3, 10), (3, 3), (3, 11)]) = some ([false, true, false], 1, true) := by decide
/-- B4. -/
theorem test_drw_wraps_both_axes : after { start 0xD125 [(1, 0x3E), (2, 0x1E)] with I := 0x023 }
    (look [(30, 62), (30, 1), (30, 2), (31, 1), (31, 0), (0, 0), (1, 63), (2, 63), (2, 62)]) = some 
    ([true, true, false, true, false, true, true, true, false], 0, true) := by decide
/-- K3. -/
theorem test_skp_masked : after { start 0xE49E [(4, 0x17)] with keys := 0x0080 } (fun t => (t.reg 4, t.pc)) = some (0x17, 0x0204) := by decide
/-- K2. -/
theorem test_skp_not_held : after { start 0xE49E [(4, 0x07)] with keys := 0xFF7F } (fun t => (t.reg 4, t.pc)) = some (0x07, 0x0202) := by decide
/-- K6. -/
theorem test_sknp_held : after { start 0xE4A1 [(4, 0xF7)] with keys := 0x0080 } (fun t => (t.reg 4, t.pc)) = some (0xF7, 0x0202) := by decide
/-- K5. -/
theorem test_sknp_not_held : after { start 0xE4A1 [(4, 0x07)] with keys := 0x0000 } (fun t => (t.reg 4, t.pc)) = some (0x07, 0x0204) := by decide
/-- K7. -/
theorem test_wkey_waits : after { start 0xF30A [(3, 0x55)] with keys := 0x0000 } (fun t => (t.reg 3, t.pc)) = some (0x55, 0x0200) := by decide
/-- K8. -/
theorem test_wkey_lowest : after { start 0xF30A [] with keys := 0x0120 } (fun t => (t.reg 3, t.pc)) = some (0x05, 0x0202) := by decide
/-- K13. -/
theorem test_gdt : after { start 0xF507 [] with DT := 0x3C } (fun t => (t.reg 5, t.DT)) = some (0x3C, 0x3C) := by decide
/-- K15. -/
theorem test_sdt : after { start 0xF515 [] with DT := 0x09 } (fun t => (t.DT, t.pc)) = some (0x00, 0x0202) := by decide
/-- K16. -/
theorem test_sst : after (start 0xF518 [(5, 0x02)]) (fun t => (t.ST, t.DT)) = some (0x02, 0x00) := by decide
/-- S7 and K17: floors at 0, independently. -/
theorem test_timer_tick : ((timerTick { State.reset with DT := 1, ST := 3 }).DT, (timerTick { State.reset with DT := 0, ST := 3 }).DT,
    (timerTick { State.reset with DT := 0, ST := 3 }).ST) = (0, 0, 2) := by decide
/-- spec/70_reset_and_hazards.md R161: glyph 7 at 0x023 (vector B4 gives its bytes). -/
theorem test_font_glyph : [0x23, 0x24, 0x25, 0x26, 0x27].map State.reset.readByte = [0xF0, 0x10, 0x20, 0x40, 0x40] := by decide
/-- R140: the record tells a run with a report from one without. -/
theorem test_report_codes : [DiagKind.unknownInstruction, .stackOverflow, .stackUnderflow].map DiagKind.code = [1, 2, 3] := by decide

/-! ### Witnesses: states and operands that meet each statement's hypotheses -/

/-- The step answers a next state. -/
def steps (s : State) : Bool := (after s fun _ => ()).isSome

/-- The instruction answers a next state. -/
def runs (i : Instr) (s : State) : Bool :=
  match exec i s with
  | .next _ => true
  | .fault _ => false
  | .refused _ => false

/-- What `steps` says, in the words of the statements. -/
theorem exists_next_of_steps {s : State} (h : steps s = true) : ∃ t, step s = .next t := by
  cases hs : step s with
  | next t => exact ⟨t, rfl⟩
  | fault r => simp [steps, after, hs] at h
  | refused r => simp [steps, after, hs] at h

/-- What `runs` says, in the words of the statements. -/
theorem exists_next_of_runs {i : Instr} {s : State} (h : runs i s = true) : ∃ t, exec i s = .next t := by
  cases hs : exec i s with
  | next t => exact ⟨t, rfl⟩
  | fault r => simp [runs, hs] at h
  | refused r => simp [runs, hs] at h

theorem witness_EncodeOfDecode : decodeWord 0x81F4 = .ok (.add 1 0xF) ∧ decodeWord 0x0A00 = .ok (.cls 0xA) ∧
    decodeWord 0xFF65 = .ok (.ldm 0xF) := by decide

theorem witness_DecoderFollowsOpcodeMap : (⟨"ADD", 0xF00F, 0x8004⟩ : OpcodeRow) ∈ opcodeRows ∧
    OpcodeRow.selects ⟨"ADD", 0xF00F, 0x8004⟩ 0x8124 = true := by decide

/-- One word at each edge of each clause; the neighbours that are defined are in the decode tests above. -/
theorem witness_UnknownWordsExactly : (([0x0001, 0x000D, 0x000F, 0x00FF, 0x8008, 0x8FFD, 0x8FFF, 0xE09D, 0xE09F, 0xE0A0,
    0xE0A2, 0xF006, 0xF008, 0xF066, 0xFFFF] : List Word).all fun w => decodeWord w == .error (.unknownWord w)) = true := by
  decide

theorem witness_InstructionIsTwoBytes : decode [0x6A, 0x2F, 0xFF] = .ok (.ldi 0xA 0x2F, [0xFF]) ∧
    decode [0x00, 0x00] = .ok (.cls 0, []) := by decide

theorem witness_DontCareDigitsIgnored : ({ State.reset with sp := 1 } : State).sp ≠ 0 ∧
    ({ State.reset with sp := 16 } : State).sp ≠ 0 := by decide

theorem witness_StepRunsDecodedInstruction :
    decode [(start 0x6A2F []).readByte (start 0x6A2F []).pc.toNat, (start 0x6A2F []).readByte ((start 0x6A2F []).pc + 1).toNat]
      = .ok (.ldi 0xA 0x2F, []) := by decide

/-- `pc` at the origin, and where the two bytes straddle both wraps. -/
theorem witness_PlacedInstructionRuns : State.reset.mem.wf ∧ ({ State.reset with pc := 0xFFFF } : State).mem.wf ∧
    (start 0xF155 []).mem.wf := by decide

theorem witness_UnknownWordIsReportedNoOp :
    decodeWord (start 0xFFFF []).fetchWord = .error (.unknownWord (start 0xFFFF []).fetchWord) := by decide

/-- A step with no report, and one of each clause. -/
theorem witness_ReportedExactlyWhen :
    (∃ t, step (start 0x6A2F []) = .next t) ∧ (∃ t, step (start 0x00E0 []) = .next t) ∧
    (∃ t, step { start 0x2300 [] with sp := 16 } = .next t) ∧ (∃ t, step { start 0x2300 [] with sp := 15 } = .next t) ∧
    (∃ t, step (start 0x000E []) = .next t) ∧ ∃ t, step { start 0x000E [] with sp := 1 } = .next t :=
  ⟨exists_next_of_steps (by decide), exists_next_of_steps (by decide), exists_next_of_steps (by decide),
    exists_next_of_steps (by decide), exists_next_of_steps (by decide), exists_next_of_steps (by decide)⟩

/-- An instruction of each clause of the net-effect table; the conditions of the clauses are in the step tests above. -/
theorem witness_NetEffectOnPc : decodeWord (start 0x1ABC []).fetchWord = .ok (.jp 0xABC) ∧
    decodeWord (start 0x2300 []).fetchWord = .ok (.call 0x300) ∧ decodeWord (start 0x000E []).fetchWord = .ok (.ret 0) ∧
    decodeWord (start 0xBFFF []).fetchWord = .ok (.jpv 0xFFF) ∧ decodeWord (start 0x332A []).fetchWord = .ok (.sei 3 0x2A) ∧
    decodeWord (start 0xE4A1 []).fetchWord = .ok (.sknp 4) ∧ decodeWord (start 0xF30A []).fetchWord = .ok (.wkey 3) ∧
    decodeWord (start 0x6A2F []).fetchWord = .ok (.ldi 0xA 0x2F) := by decide

theorem witness_JumpResults : decodeWord (start 0x1200 []).fetchWord = .ok (.jp 0x200) ∧
    (start 0x1200 []).pc.toNat = (0x200 : Addr12).toNat := by decide

/-- No entry held, and the last free slot. -/
theorem witness_CallPushesAndJumps : State.reset.sp.val < 16 ∧ ({ State.reset with sp := 15 } : State).sp.val < 16 := by decide

/-- One entry held, and all sixteen. -/
theorem witness_RetPops : ({ State.reset with sp := 1 } : State).sp.val = 0 + 1 ∧
    ({ State.reset with sp := 16 } : State).sp.val = 15 + 1 := by decide

theorem witness_StackMisuseIsReportedNoOp : ({ State.reset with sp := 16 } : State).sp.val = 16 ∧ State.reset.sp.val = 0 := by
  decide

theorem witness_RetUndoesCall : State.reset.sp.val < 16 ∧ ({ State.reset with sp := 15 } : State).sp.val < 16 := by decide

theorem witness_DigitStoreResult : (start 0xF433 [(4, 0xFF)]).mem.wf ∧
    ({ start 0xF433 [(4, 0x7B)] with I := 0xFFE } : State).mem.wf := by decide

/-- Memory canonical, an address the last dumped byte reaches, and the first one past it, with and without a wrap. -/
theorem witness_RegisterDumpResult : ({ start 0xF155 [] with I := 0xFFF } : State).mem.wf ∧ (1 : Nibble).toNat ≤ (1 : Nibble).toNat ∧
    (∀ k ≤ (1 : Nibble).toNat, 0x302 % 4096 ≠ (0x300 + k) % 4096) ∧
    ∀ k ≤ (1 : Nibble).toNat, 0x001 % 4096 ≠ (0xFFF + k) % 4096 := by decide

/-- The state the dump leaves is itself one with that memory and the same `I`. -/
theorem witness_DumpThenLoadRoundTrips : (start 0xF155 []).mem.wf ∧
    after { start 0xF155 [(0, 0xDE), (1, 0xAD)] with I := 0x300 } (fun t => t.I) = some 0x300 := by decide

/-- At an ordinary address, and where the two bytes straddle the end of memory. -/
theorem witness_StoreIsSeenByNextFetch :
    (({ State.reset with I := 0x200 } : State).mem.wf ∧ 1 ≤ (1 : Nibble).toNat ∧
      ({ State.reset with I := 0x200 } : State).pc.toNat % 4096 = ({ State.reset with I := 0x200 } : State).I.toNat % 4096) ∧
    ({ State.reset with I := 0xFFF, pc := 0xFFFF } : State).pc.toNat % 4096 =
      ({ State.reset with I := 0xFFF, pc := 0xFFFF } : State).I.toNat % 4096 := by decide

theorem witness_DrawTwiceRestores : (0 : Nibble) ≠ 0xF ∧ (0xE : Nibble) ≠ 0xF := by decide

/-- The lowest and the highest key. -/
theorem witness_WaitKeyCompletes :
    (({ State.reset with keys := 0xFFFF } : State).keys.getLsbD 0 = true ∧
      ∀ i < 0, ({ State.reset with keys := 0xFFFF } : State).keys.getLsbD i = false) ∧
    ({ State.reset with keys := 0x8000 } : State).keys.getLsbD 15 = true ∧
      ∀ i < 15, ({ State.reset with keys := 0x8000 } : State).keys.getLsbD i = false := by decide

theorem witness_WaitKeyWaits : decodeWord (start 0xF30A []).fetchWord = .ok (.wkey 3) ∧ (start 0xF30A []).keys = 0 := by decide

theorem witness_SetTimerAndTickSerialise : decodeWord (start 0xF515 [(5, 3)]).fetchWord = .ok (.sdt 5) := by decide

/-- An instruction that is no timer instruction, and an unknown word. -/
theorem witness_TickCommutesWithOtherSteps :
    (decodeWord (start 0x8124 []).fetchWord = .ok (.add 1 2) ∧ mnemonic (.add 1 2) ∉ ["GDT", "SDT", "SST"] ∧
      ∃ t, step (start 0x8124 []) = .next t) ∧
    (start 0xFFFF []).fetchWord = 0xFFFF ∧ decodeWord 0xFFFF = .error (.unknownWord 0xFFFF) ∧
      ∃ t, step (start 0xFFFF []) = .next t :=
  ⟨⟨by decide, by decide, exists_next_of_steps (by decide)⟩, by decide, by decide, exists_next_of_steps (by decide)⟩

/-- An instruction that writes each piece of state completes. -/
theorem witness_StateWrittenOnlyByNamed : ([.lda 0x300, .call 0x300, .sdt 5, .sst 5, .bcd 4, .stm 1, .cls 0, .drw 0 1 5,
    .rnd 5 0xFF, .ret 0, .jp 0x300, .wkey 3, .ldi 1 0xFF, .adda 0] : List Instr).all (fun i => runs i State.reset) = true := by decide

theorem witness_OnlyStoresChangeMemory : (∃ t, exec (.ldm 0xF) State.reset = .next t) ∧ mnemonic (.ldm 0xF) ∉ ["BCD", "STM"] :=
  ⟨exists_next_of_runs (by decide), by decide⟩

/-- A register next to the one written, and the one above the last `LDM` loads. -/
theorem witness_OtherRegistersKept : ((∃ t, exec (.ldi 1 0xFF) State.reset = .next t) ∧ ¬ mayWrite (.ldi 1 0xFF) 2) ∧
    ((∃ t, exec (.ldm 0xE) State.reset = .next t) ∧ ¬ mayWrite (.ldm 0xE) 0xF) :=
  ⟨⟨exists_next_of_runs (by decide), by simp [mayWrite]⟩, exists_next_of_runs (by decide), by simp [mayWrite]⟩

/-- One instruction of each clause. -/
theorem witness_FlagRegisterDiscipline :
    ((∃ t, exec (.ldm 0xE) State.reset = .next t) ∧
      mnemonic (.ldm 0xE) ∉ ["ADD", "SUB", "SHR", "SUBN", "SHL", "ADDA", "DRW"] ∧ fieldX (encode (.ldm 0xE)) ≠ 0xF) ∧
    ((∃ t, exec (.shl 0xE 0) State.reset = .next t) ∧
      mnemonic (.shl 0xE 0) ∈ ["ADD", "SUB", "SHR", "SUBN", "SHL", "ADDA", "DRW"] ∧
      ¬ (mnemonic (.shl 0xE 0) = "SHL" ∧ fieldX (encode (.shl 0xE 0)) = 0xF)) :=
  ⟨⟨exists_next_of_runs (by decide), by decide, by decide⟩, exists_next_of_runs (by decide), by decide, by decide⟩

/-- A step that writes the sound timer, and one that does not. -/
theorem witness_SoundTimerIsNeverRead : (∃ t, step (start 0xF518 []) = .next t) ∧ ∃ t, step (start 0xF507 []) = .next t :=
  ⟨exists_next_of_steps (by decide), exists_next_of_steps (by decide)⟩

/-- A step that inverts `dirty`, and one that does not. -/
theorem witness_DirtyIsNeverRead : (∃ t, step (start 0x0000 []) = .next t) ∧ ∃ t, step (start 0x6A2F []) = .next t :=
  ⟨exists_next_of_steps (by decide), exists_next_of_steps (by decide)⟩

/-- A step that reads no key, and a step of each of the three that do. -/
theorem witness_KeysReadOnlyByThree : (decodeWord (start 0xF507 []).fetchWord = .ok (.gdt 5) ∧
    mnemonic (.gdt 5) ∉ ["SKP", "SKNP", "WKEY"] ∧ ∃ t, step (start 0xF507 []) = .next t) ∧
    (∃ t, step (start 0xE49E []) = .next t) ∧ (∃ t, step (start 0xE4A1 []) = .next t) ∧ ∃ t, step (start 0xF30A []) = .next t :=
  ⟨⟨by decide, by decide, exists_next_of_steps (by decide)⟩, exists_next_of_steps (by decide),
    exists_next_of_steps (by decide), exists_next_of_steps (by decide)⟩

/-- Two stacks that agree below `sp` = 1 and differ above, and a step. -/
theorem witness_StaleStackSlotsAreNeverRead :
    (∀ k (hk : k < 16), k < ({ start 0x000E [] with sp := 1 } : State).sp.val →
      ((Vector.replicate 16 (0xDEAD : Word)).set 0 0)[k] = ({ start 0x000E [] with sp := 1 } : State).stack[k]) ∧
    ∃ t, step { start 0x000E [] with sp := 1 } = .next t :=
  ⟨by decide, exists_next_of_steps (by decide)⟩

/-- The empty program, the longest one, and one byte more; a byte below and one above the program. -/
theorem witness_ProgramLoad : ([] : List Byte).length ≤ 3584 ∧ (List.replicate 3584 (0xFF : Byte)).length ≤ 3584 ∧
    3584 < (List.replicate 3585 (0xFF : Byte)).length ∧ (0x1FF < 4096 ∧ 0x1FF < 0x200) ∧ (0xFFF < 4096 ∧ 0x200 + 3583 ≤ 0xFFF) := by
  simp only [List.length_replicate, List.length_nil]; omega

/-- The invariant with memory listed, and with a report of each kind recorded. -/
theorem witness_Inv : (start 0xF155 []).Inv ∧ State.Inv { start 0xF155 [] with
    diags := [⟨.unknownInstruction, 0x00E0, 0x0202⟩, ⟨.stackOverflow, 0x2204, 0x0206⟩, ⟨.stackUnderflow, 0x070E, 0x0204⟩] } := by
  refine ⟨⟨by decide, by decide, ?_⟩, by decide, by decide, ?_⟩
  · rw [show (start 0xF155 []).diags = [] by decide]; simp
  · simp only [List.forall_mem_cons, List.not_mem_nil, false_implies, implies_true, and_true]
    exact ⟨show decodeWord 0x00E0 = _ by decide, ⟨0x204, show decodeWord 0x2204 = _ by decide⟩,
      7, show decodeWord 0x070E = _ by decide⟩

theorem witness_StepKeepsInv : (start 0xF155 []).Inv ∧ ∃ t, step (start 0xF155 []) = .next t :=
  ⟨witness_Inv.1, exists_next_of_steps (by decide)⟩

theorem witness_SchedulesAnswerAndKeepInv : (start 0xF155 []).Inv := witness_Inv.1

end Sys2Proof.Tests
end

section
/-! Families 0x8, 0xE and 0xF of the opcode map: the family decoder of every word as one table over the selector
field (spec/30_encoding.md R56, R57, R58), and from it what each selector value decodes to. -/
namespace Sys2Proof

/-! ### The family digit chooses the family decoder -/

theorem decodeWord_eq_decode8 {w : Word} (h : fieldOp w = 0x8) : decodeWord w = decode8 w := by
  simp only [decodeWord, h]; rfl

theorem decodeWord_eq_decodeE {w : Word} (h : fieldOp w = 0xE) : decodeWord w = decodeE w := by
  simp only [decodeWord, h]; rfl

theorem decodeWord_eq_decodeF {w : Word} (h : fieldOp w = 0xF) : decodeWord w = decodeF w := by
  simp only [decodeWord, h]; rfl

/-! ### Each family decoder as a table over its selector

The decoders match on the selector's number. Written on numbers, every condition of the table is decided by the arm of the
match: in an arm by its number, in the last one by the selector being none of the numbers above it. -/

/-- Family 0x8 selects on `n` (R56). -/
theorem decode8_eq_table (w : Word) : decode8 w =
    if fieldN w = 0x0 then .ok (.mov (fieldX w) (fieldY w)) else if fieldN w = 0x1 then .ok (.or (fieldX w) (fieldY w))
    else if fieldN w = 0x2 then .ok (.and (fieldX w) (fieldY w)) else if fieldN w = 0x3 then .ok (.xor (fieldX w) (fieldY w))
    else if fieldN w = 0x4 then .ok (.add (fieldX w) (fieldY w)) else if fieldN w = 0x5 then .ok (.sub (fieldX w) (fieldY w))
    else if fieldN w = 0x6 then .ok (.shr (fieldX w) (fieldY w)) else if fieldN w = 0x7 then .ok (.subn (fieldX w) (fieldY w))
    else if fieldN w = 0xE then .ok (.shl (fieldX w) (fieldY w)) else .error (.unknownWord w) := by
  simp only [← BitVec.toNat_inj, BitVec.reduceToNat]
  unfold decode8
  split
  case h_10 h0 h1 h2 h3 h4 h5 h6 h7 hE =>
    rw [if_neg h0, if_neg h1, if_neg h2, if_neg h3, if_neg h4, if_neg h5, if_neg h6, if_neg h7, if_neg hE]
  all_goals simp [*]

/-- Family 0xE selects on `nn` (R57). -/
theorem decodeE_eq_table (w : Word) : decodeE w =
    if fieldNN w = 0x9E then .ok (.skp (fieldX w)) else if fieldNN w = 0xA1 then .ok (.sknp (fieldX w))
    else .error (.unknownWord w) := by
  simp only [← BitVec.toNat_inj, BitVec.reduceToNat]
  unfold decodeE
  split
  case h_3 h9E hA1 => rw [if_neg h9E, if_neg hA1]
  all_goals simp [*]

/-- Family 0xF selects on `nn` (R58). -/
theorem decodeF_eq_table (w : Word) : decodeF w =
    if fieldNN w = 0x07 then .ok (.gdt (fieldX w)) else if fieldNN w = 0x0A then .ok (.wkey (fieldX w))
    else if fieldNN w = 0x15 then .ok (.sdt (fieldX w)) else if fieldNN w = 0x18 then .ok (.sst (fieldX w))
    else if fieldNN w = 0x1E then .ok (.adda (fieldX w)) else if fieldNN w = 0x29 then .ok (.fnt (fieldX w))
    else if fieldNN w = 0x33 then .ok (.bcd (fieldX w)) else if fieldNN w = 0x55 then .ok (.stm (fieldX w))
    else if fieldNN w = 0x65 then .ok (.ldm (fieldX w)) else .error (.unknownWord w) := by
  simp only [← BitVec.toNat_inj, BitVec.reduceToNat]
  unfold decodeF
  split
  case h_10 h07 h0A h15 h18 h1E h29 h33 h55 h65 =>
    rw [if_neg h07, if_neg h0A, if_neg h15, if_neg h18, if_neg h1E, if_neg h29, if_neg h33, if_neg h55, if_neg h65]
  all_goals simp [*]

/-- Settles O4: the family digit chooses the family decoder, whose table over the selector is read at the fields of the
word built. -/
theorem familySelectors : Obligations.FamilySelectors := by
  refine ⟨fun x y n => ?family8, fun x nn => ?familyE, fun x nn => ?familyF⟩
  case family8 =>
    rw [decodeWord_eq_decode8 (fieldOp_nibbles 0x8 x y n), decode8_eq_table]
    simp only [fieldX_nibbles, fieldY_nibbles, fieldN_nibbles]
  case familyE =>
    rw [decodeWord_eq_decodeE (fieldOp_wordXI 0xE x nn), decodeE_eq_table]
    simp only [fieldX_wordXI, fieldNN_wordXI]
  case familyF =>
    rw [decodeWord_eq_decodeF (fieldOp_wordXI 0xF x nn), decodeF_eq_table]
    simp only [fieldX_wordXI, fieldNN_wordXI]

end Sys2Proof
end

section
/-! The skips of spec/40_flow.md: a skip on a condition as a statement about `pc` alone, and from it the two skips on a
literal with their encodings. -/
namespace Sys2Proof.Machine

/-! ### A skip on a condition, and on its complement -/

/-- An instruction whose meaning is the skip primitive (R71) moves the advanced `pc` by 2 more exactly when its condition
holds. -/
theorem answersPc_of_skipIf {i : Instr} {s : State} {c : Bool} {P : Prop} [Decidable P]
    (hexec : exec i s = .next (s.skipIf c)) (hc : c = true ↔ P) :
    AnswersPc i s (if P then s.pc + 2 else s.pc) := by
  rw [AnswersPc, hexec, State.skipIf_eq]
  simp only [hc]
  rfl

theorem answersPc_of_skipIf_not {i : Instr} {s : State} {c : Bool} {P : Prop} [Decidable P]
    (hexec : exec i s = .next (s.skipIf c)) (hc : c = true ↔ ¬ P) :
    AnswersPc i s (if P then s.pc else s.pc + 2) := by
  rw [← ite_not]
  exact answersPc_of_skipIf hexec hc

/-! ### What `SEI` and `SNEI` are encoded as and what they do -/

theorem decodeWord_eq_sei {w : Word} (h : fieldOp w = 0x3) : decodeWord w = .ok (.sei (fieldX w) (fieldNN w)) := by
  simp only [decodeWord, h]; rfl

theorem decodeWord_eq_snei {w : Word} (h : fieldOp w = 0x4) : decodeWord w = .ok (.snei (fieldX w) (fieldNN w)) := by
  simp only [decodeWord, h]; rfl

theorem exec_sei (x : Nibble) (nn : Byte) (s : State) : exec (.sei x nn) s = .next (s.skipIf (s.reg x == nn)) := rfl

theorem exec_snei (x : Nibble) (nn : Byte) (s : State) : exec (.snei x nn) s = .next (s.skipIf (s.reg x != nn)) := rfl

/-- Settles O17: each word decodes by its family digit, and the comparison of the two bytes is that of their numbers. -/
theorem skipOnLiteralResults : Obligations.SkipOnLiteralResults := by
  intro s x nn
  refine ⟨?decodeSei, ?decodeSnei, answersPc_of_skipIf (exec_sei x nn s) ?equal,
    answersPc_of_skipIf_not (exec_snei x nn s) ?unequal⟩
  case decodeSei => rw [decodeWord_eq_sei (fieldOp_wordXI 0x3 x nn), fieldX_wordXI, fieldNN_wordXI]
  case decodeSnei => rw [decodeWord_eq_snei (fieldOp_wordXI 0x4 x nn), fieldX_wordXI, fieldNN_wordXI]
  case equal => rw [beq_iff_eq, BitVec.toNat_inj]
  case unequal => rw [bne_iff_ne, BitVec.toNat_inj]

end Sys2Proof.Machine
end

section
/-! The single-register writes of spec/41_alu.md: an instruction that sets one register as a statement about the whole
register file, and from it the loads, the literal add and the bitwise instructions with their encodings. -/
namespace Sys2Proof.Machine

/-! ### One register set -/

/-- An instruction whose meaning is `V[x] <- v` changes register `x` alone, the flag register like any other. -/
theorem answersRegs_of_setReg {i : Instr} {s : State} {x : Nibble} {v : Byte}
    (hexec : exec i s = .next (s.setReg x v)) : AnswersRegs i s (fun k => if k = x then v else s.reg k) :=
  ⟨s.setReg x v, hexec, fun k => s.reg_setReg x k v, rfl, fun _ => rfl⟩

/-- The sum of two bytes is the sum of their numbers modulo 256 (R91, R96). -/
theorem byte_add_eq_ofNat (a b : Byte) : a + b = BitVec.ofNat 8 ((a.toNat + b.toNat) % 256) := by
  apply BitVec.eq_of_toNat_eq
  rw [BitVec.toNat_add, BitVec.toNat_ofNat, Nat.mod_mod]

/-! ### What the literal instructions are encoded as -/

theorem decodeWord_eq_ldi {w : Word} (h : fieldOp w = 0x6) : decodeWord w = .ok (.ldi (fieldX w) (fieldNN w)) := by
  simp only [decodeWord, h]; rfl

theorem decodeWord_eq_addi {w : Word} (h : fieldOp w = 0x7) : decodeWord w = .ok (.addi (fieldX w) (fieldNN w)) := by
  simp only [decodeWord, h]; rfl

/-! ### What each instruction writes -/

theorem exec_ldi (x : Nibble) (nn : Byte) (s : State) : exec (.ldi x nn) s = .next (s.setReg x nn) := rfl

theorem exec_addi (x : Nibble) (nn : Byte) (s : State) : exec (.addi x nn) s = .next (s.setReg x (s.reg x + nn)) := rfl

theorem exec_mov (x y : Nibble) (s : State) : exec (.mov x y) s = .next (s.setReg x (s.reg y)) := rfl

theorem exec_or (x y : Nibble) (s : State) : exec (.or x y) s = .next (s.setReg x (s.reg x ||| s.reg y)) := rfl

theorem exec_and (x y : Nibble) (s : State) : exec (.and x y) s = .next (s.setReg x (s.reg x &&& s.reg y)) := rfl

theorem exec_xor (x y : Nibble) (s : State) : exec (.xor x y) s = .next (s.setReg x (s.reg x ^^^ s.reg y)) := rfl

/-- Settles O23: each instruction sets `V[x]` alone, `ADDI` to the wrapped sum; the words decode by their family digit,
that of `MOV` by the table of family 0x8 at `n` = 0. -/
theorem loadResults : Obligations.LoadResults := by
  obtain ⟨family8, -, -⟩ := familySelectors
  intro s x y nn
  refine ⟨?decodeLdi, ?decodeAddi, family8 x y 0x0, answersRegs_of_setReg (exec_ldi x nn s), ?addi,
    answersRegs_of_setReg (exec_mov x y s)⟩
  case decodeLdi => rw [decodeWord_eq_ldi (fieldOp_wordXI 0x6 x nn), fieldX_wordXI, fieldNN_wordXI]
  case decodeAddi => rw [decodeWord_eq_addi (fieldOp_wordXI 0x7 x nn), fieldX_wordXI, fieldNN_wordXI]
  case addi =>
    rw [← byte_add_eq_ofNat]
    exact answersRegs_of_setReg (exec_addi x nn s)

/-- Settles O24: the table of family 0x8 at `n` = 1, 2 and 3, and each instruction sets `V[x]` alone. -/
theorem logicResults : Obligations.LogicResults := by
  obtain ⟨family8, -, -⟩ := familySelectors
  intro s x y
  exact ⟨family8 x y 0x1, family8 x y 0x2, family8 x y 0x3, answersRegs_of_setReg (exec_or x y s),
    answersRegs_of_setReg (exec_and x y s), answersRegs_of_setReg (exec_xor x y s)⟩

end Sys2Proof.Machine
end

section
/-! Words of four digits whose family selects on `nn`: their two low digits are the byte `nn`, so the table of family 0xF
(spec/30_encoding.md R58) says what a word `FXcd` decodes to. -/
namespace Sys2Proof

theorem nibbles_eq_wordXI (a b c d : Nibble) : nibbles a b c d = wordXI a b (c ++ d) := by
  apply BitVec.eq_of_toNat_eq
  rw [toNat_nibbles, toNat_wordXI, toNat_append_eq]
  omega

end Sys2Proof
end

section
/-! The index register of spec/42_index_memory.md: what `LDA`, `FNT` and `ADDA` write, with their encodings. -/
namespace Sys2Proof.Machine

/-! ### What the writes to `I` and to a register leave unchanged -/

@[simp] theorem State.reg_setI (s : State) (v : Word) (k : Nibble) : (s.setI v).reg k = s.reg k := rfl

@[simp] theorem State.readByte_setI (s : State) (v : Word) (a : Nat) : (s.setI v).readByte a = s.readByte a := rfl

@[simp] theorem State.readByte_setReg (s : State) (k : Nibble) (v : Byte) (a : Nat) :
    (s.setReg k v).readByte a = s.readByte a := rfl

/-! ### Numbers -/

/-- A 12-bit literal keeps its number: bits 15..12 of the wider word are 0 (R110). -/
theorem zext16_eq_ofNat (nnn : Addr12) : zext16 nnn = BitVec.ofNat 16 nnn.toNat := by
  rw [BitVec.ofNat_toNat, zext16]

/-- A number reduced to 12 bits fits a 16-bit word. -/
theorem toNat_ofNat16_mod_0x1000 (n : Nat) : (BitVec.ofNat 16 (n % 0x1000)).toNat = n % 0x1000 := by
  rw [BitVec.toNat_ofNat]
  omega

theorem indexOverflow_eq (i : Word) (v : Byte) :
    indexOverflow i v = if i.toNat + v.toNat > 0xFFF then 1 else 0 := by
  simp only [indexOverflow, flagByte, decide_eq_true_eq]

/-! ### What each instruction is encoded as and what it writes -/

theorem decodeWord_eq_lda {w : Word} (h : fieldOp w = 0xA) : decodeWord w = .ok (.lda (fieldNNN w)) := by
  simp only [decodeWord, h]; rfl

theorem exec_lda (nnn : Addr12) (s : State) : exec (.lda nnn) s = .next (s.setI (zext16 nnn)) := rfl

theorem exec_fnt (x : Nibble) (s : State) :
    exec (.fnt x) s = .next (s.setI (BitVec.ofNat 16 ((s.reg x).toNat * 5))) := rfl

theorem exec_adda (x : Nibble) (s : State) : exec (.adda x) s =
    .next ((s.setI (BitVec.ofNat 16 ((s.I.toNat + (s.reg x).toNat) % 0x1000))).setReg 0xF
      (indexOverflow s.I (s.reg x))) := rfl

/-- Settles O29: both writes take `V[x]` from the state before the instruction, so the flag is that of the unwrapped sum
also when `x` is 15; `FX1E` is read from the table of family 0xF. -/
theorem indexAddResult : Obligations.IndexAddResult := by
  obtain ⟨-, -, familyF⟩ := familySelectors
  intro s x
  refine ⟨?decode, _, exec_adda x s, ?index, fun k => ?registers, rfl, fun a => ?memory⟩
  case decode =>
    rw [nibbles_eq_wordXI]
    exact familyF x 0x1E
  case index => rw [State.setReg_I, State.setI_I, toNat_ofNat16_mod_0x1000]
  case registers => rw [State.reg_setReg, State.reg_setI, indexOverflow_eq]
  case memory => rw [State.readByte_setReg, State.readByte_setI]

/-- Settles O28: `ANNN` decodes by its family digit and `FX29` by the table of family 0xF; each instruction sets `I`
alone. -/
theorem indexLoadResults : Obligations.IndexLoadResults := by
  obtain ⟨-, -, familyF⟩ := familySelectors
  intro s nnn x
  refine ⟨?decodeLda, ?decodeFnt, ?lda, exec_fnt x s⟩
  case decodeLda => rw [decodeWord_eq_lda (fieldOp_wordA 0xA nnn), fieldNNN_wordA]
  case decodeFnt =>
    rw [nibbles_eq_wordXI]
    exact familyF x 0x29
  case lda =>
    rw [exec_lda, zext16_eq_ofNat]
    rfl

end Sys2Proof.Machine
end

section
/-! The decoder as a whole (spec/30_encoding.md R54 to R60): what each family decodes to, and from it that decoding and
encoding are inverse to each other on the defined words. -/
namespace Sys2Proof

/-! ### The families that are one instruction each -/

theorem decodeWord_eq_jp {w : Word} (h : fieldOp w = 0x1) : decodeWord w = .ok (.jp (fieldNNN w)) := by
  simp only [decodeWord, h]; rfl

theorem decodeWord_eq_call {w : Word} (h : fieldOp w = 0x2) : decodeWord w = .ok (.call (fieldNNN w)) := by
  simp only [decodeWord, h]; rfl

theorem decodeWord_eq_se {w : Word} (h : fieldOp w = 0x5) : decodeWord w = .ok (.se (fieldX w) (fieldY w) (fieldN w)) := by
  simp only [decodeWord, h]; rfl

theorem decodeWord_eq_sne {w : Word} (h : fieldOp w = 0x9) :
    decodeWord w = .ok (.sne (fieldX w) (fieldY w) (fieldN w)) := by
  simp only [decodeWord, h]; rfl

theorem decodeWord_eq_jpv {w : Word} (h : fieldOp w = 0xB) : decodeWord w = .ok (.jpv (fieldNNN w)) := by
  simp only [decodeWord, h]; rfl

theorem decodeWord_eq_rnd {w : Word} (h : fieldOp w = 0xC) : decodeWord w = .ok (.rnd (fieldX w) (fieldNN w)) := by
  simp only [decodeWord, h]; rfl

theorem decodeWord_eq_drw {w : Word} (h : fieldOp w = 0xD) :
    decodeWord w = .ok (.drw (fieldX w) (fieldY w) (fieldN w)) := by
  simp only [decodeWord, h]; rfl

open Machine in
/-- In the twelve families whose digit is the whole selector every word decodes, and to an instruction with that word. -/
theorem decodeWord_of_plainFamily {w : Word} (h : fieldOp w ∉ ([0x0, 0x8, 0xE, 0xF] : List Nibble)) :
    ∃ i, decodeWord w = .ok i ∧ encode i = w := by
  have hA := wordA_fields w
  have hXI := wordXI_fields w
  have hnib := nibbles_fields w
  have digits : ∀ a : Nibble, a ∉ ([0x0, 0x8, 0xE, 0xF] : List Nibble) → a = 0x1 ∨ a = 0x2 ∨ a = 0x3 ∨ a = 0x4 ∨ a = 0x5 ∨
      a = 0x6 ∨ a = 0x7 ∨ a = 0x9 ∨ a = 0xA ∨ a = 0xB ∨ a = 0xC ∨ a = 0xD := by decide
  rcases digits _ h with hop | hop | hop | hop | hop | hop | hop | hop | hop | hop | hop | hop <;> rw [hop] at hA hXI hnib
  · exact ⟨_, decodeWord_eq_jp hop, hA⟩
  · exact ⟨_, decodeWord_eq_call hop, hA⟩
  · exact ⟨_, decodeWord_eq_sei hop, hXI⟩
  · exact ⟨_, decodeWord_eq_snei hop, hXI⟩
  · exact ⟨_, decodeWord_eq_se hop, hnib⟩
  · exact ⟨_, decodeWord_eq_ldi hop, hXI⟩
  · exact ⟨_, decodeWord_eq_addi hop, hXI⟩
  · exact ⟨_, decodeWord_eq_sne hop, hnib⟩
  · exact ⟨_, decodeWord_eq_lda hop, hA⟩
  · exact ⟨_, decodeWord_eq_jpv hop, hA⟩
  · exact ⟨_, decodeWord_eq_rnd hop, hXI⟩
  · exact ⟨_, decodeWord_eq_drw hop, hnib⟩

/-! ### Family 0x0 -/

theorem decodeWord_eq_decode0 {w : Word} (h : fieldOp w = 0x0) : decodeWord w = decode0 w := by
  simp only [decodeWord, h]; rfl

/-- Family 0x0 selects on `nn` (R55). -/
theorem decode0_eq_table (w : Word) : decode0 w =
    if fieldNN w = 0x00 then .ok (.cls (fieldX w)) else if fieldNN w = 0x0E then .ok (.ret (fieldX w))
    else .error (.unknownWord w) := by
  simp only [← BitVec.toNat_inj, BitVec.reduceToNat]
  unfold decode0
  split
  case h_3 h00 h0E => rw [if_neg h00, if_neg h0E]
  all_goals simp [*]

theorem family0_selectors (x : Nibble) (nn : Byte) : decodeWord (wordXI 0x0 x nn) =
    if nn = 0x00 then .ok (.cls x) else if nn = 0x0E then .ok (.ret x) else .error (.unknownWord (wordXI 0x0 x nn)) := by
  rw [decodeWord_eq_decode0 (fieldOp_wordXI 0x0 x nn), decode0_eq_table, fieldX_wordXI, fieldNN_wordXI]

/-! ### A word is that of the instruction it decodes to -/

/-- A word whose family selects on `n`, built again from its digits. -/
theorem nibbles_of_n {w : Word} {a d : Nibble} (hop : fieldOp w = a) (hn : (fieldN w).toNat = d.toNat) :
    nibbles a (fieldX w) (fieldY w) d = w := by
  rw [← hop, ← BitVec.eq_of_toNat_eq hn, nibbles_fields]

/-- A word whose family selects on `nn`, built again from its digits. -/
theorem nibbles_of_nn {w : Word} {a c d : Nibble} (hop : fieldOp w = a) (hnn : (fieldNN w).toNat = (c ++ d).toNat) :
    nibbles a (fieldX w) c d = w := by
  rw [nibbles_eq_wordXI, ← hop, ← BitVec.eq_of_toNat_eq hnn, wordXI_fields]

theorem encode_of_decode0 {w : Word} {i : Instr} (hop : fieldOp w = 0x0) (h : decode0 w = .ok i) : encode i = w := by
  unfold decode0 at h
  split at h <;> cases h
  all_goals exact nibbles_of_nn hop ‹_›

theorem encode_of_decode8 {w : Word} {i : Instr} (hop : fieldOp w = 0x8) (h : decode8 w = .ok i) : encode i = w := by
  unfold decode8 at h
  split at h <;> cases h
  all_goals exact nibbles_of_n hop ‹_›

theorem encode_of_decodeE {w : Word} {i : Instr} (hop : fieldOp w = 0xE) (h : decodeE w = .ok i) : encode i = w := by
  unfold decodeE at h
  split at h <;> cases h
  all_goals exact nibbles_of_nn hop ‹_›

theorem encode_of_decodeF {w : Word} {i : Instr} (hop : fieldOp w = 0xF) (h : decodeF w = .ok i) : encode i = w := by
  unfold decodeF at h
  split at h <;> cases h
  all_goals exact nibbles_of_nn hop ‹_›

/-- The four families that select further, and the others. -/
theorem family_cases (w : Word) : fieldOp w = 0x0 ∨ fieldOp w = 0x8 ∨ fieldOp w = 0xE ∨ fieldOp w = 0xF ∨
    fieldOp w ∉ ([0x0, 0x8, 0xE, 0xF] : List Nibble) := by
  generalize fieldOp w = a
  revert a
  decide

/-- Settles O2: in each family a word is built again from the fields its instruction keeps. -/
theorem encodeOfDecode : Obligations.EncodeOfDecode := by
  intro w i h
  rcases family_cases w with hop | hop | hop | hop | hop
  · exact encode_of_decode0 hop (decodeWord_eq_decode0 hop ▸ h)
  · exact encode_of_decode8 hop (decodeWord_eq_decode8 hop ▸ h)
  · exact encode_of_decodeE hop (decodeWord_eq_decodeE hop ▸ h)
  · exact encode_of_decodeF hop (decodeWord_eq_decodeF hop ▸ h)
  · obtain ⟨j, hj, hw⟩ := decodeWord_of_plainFamily hop
    cases hj.symm.trans h
    exact hw

/-! ### An instruction is read back from its word -/

open Machine in
/-- Settles O1: each word is built from the fields the table of its family reads. -/
theorem decodeOfEncode : Obligations.DecodeOfEncode := by
  obtain ⟨family8, familyE, familyF⟩ := familySelectors
  intro i
  cases i with
  | cls x => rw [encode, nibbles_eq_wordXI]; exact family0_selectors x 0x00
  | ret x => rw [encode, nibbles_eq_wordXI]; exact family0_selectors x 0x0E
  | jp nnn => rw [encode, decodeWord_eq_jp (fieldOp_wordA ..), fieldNNN_wordA]
  | call nnn => rw [encode, decodeWord_eq_call (fieldOp_wordA ..), fieldNNN_wordA]
  | sei x nn => rw [encode, decodeWord_eq_sei (fieldOp_wordXI ..), fieldX_wordXI, fieldNN_wordXI]
  | snei x nn => rw [encode, decodeWord_eq_snei (fieldOp_wordXI ..), fieldX_wordXI, fieldNN_wordXI]
  | se x y n => rw [encode, decodeWord_eq_se (fieldOp_nibbles ..), fieldX_nibbles, fieldY_nibbles, fieldN_nibbles]
  | ldi x nn => rw [encode, decodeWord_eq_ldi (fieldOp_wordXI ..), fieldX_wordXI, fieldNN_wordXI]
  | addi x nn => rw [encode, decodeWord_eq_addi (fieldOp_wordXI ..), fieldX_wordXI, fieldNN_wordXI]
  | mov x y => exact family8 x y 0x0
  | or x y => exact family8 x y 0x1
  | and x y => exact family8 x y 0x2
  | xor x y => exact family8 x y 0x3
  | add x y => exact family8 x y 0x4
  | sub x y => exact family8 x y 0x5
  | shr x y => exact family8 x y 0x6
  | subn x y => exact family8 x y 0x7
  | shl x y => exact family8 x y 0xE
  | sne x y n => rw [encode, decodeWord_eq_sne (fieldOp_nibbles ..), fieldX_nibbles, fieldY_nibbles, fieldN_nibbles]
  | lda nnn => rw [encode, decodeWord_eq_lda (fieldOp_wordA ..), fieldNNN_wordA]
  | jpv nnn => rw [encode, decodeWord_eq_jpv (fieldOp_wordA ..), fieldNNN_wordA]
  | rnd x nn => rw [encode, decodeWord_eq_rnd (fieldOp_wordXI ..), fieldX_wordXI, fieldNN_wordXI]
  | drw x y n => rw [encode, decodeWord_eq_drw (fieldOp_nibbles ..), fieldX_nibbles, fieldY_nibbles, fieldN_nibbles]
  | skp x => rw [encode, nibbles_eq_wordXI]; exact familyE x 0x9E
  | sknp x => rw [encode, nibbles_eq_wordXI]; exact familyE x 0xA1
  | gdt x => rw [encode, nibbles_eq_wordXI]; exact familyF x 0x07
  | wkey x => rw [encode, nibbles_eq_wordXI]; exact familyF x 0x0A
  | sdt x => rw [encode, nibbles_eq_wordXI]; exact familyF x 0x15
  | sst x => rw [encode, nibbles_eq_wordXI]; exact familyF x 0x18
  | adda x => rw [encode, nibbles_eq_wordXI]; exact familyF x 0x1E
  | fnt x => rw [encode, nibbles_eq_wordXI]; exact familyF x 0x29
  | bcd x => rw [encode, nibbles_eq_wordXI]; exact familyF x 0x33
  | stm x => rw [encode, nibbles_eq_wordXI]; exact familyF x 0x55
  | ldm x => rw [encode, nibbles_eq_wordXI]; exact familyF x 0x65

end Sys2Proof
end

section
/-! Which words are unknown (spec/30_encoding.md R60), and the opcode map (R54) as the decoder's other description. -/
namespace Sys2Proof

/-! ### Unknown words -/

/-- The table of R60: the words that satisfy no row of the opcode map. -/
def NoRow (w : Word) : Prop :=
  (fieldOp w = 0x0 ∧ fieldNN w ≠ 0x00 ∧ fieldNN w ≠ 0x0E) ∨
  (fieldOp w = 0x8 ∧ fieldN w ∈ ([0x8, 0x9, 0xA, 0xB, 0xC, 0xD, 0xF] : List Nibble)) ∨
  (fieldOp w = 0xE ∧ fieldNN w ≠ 0x9E ∧ fieldNN w ≠ 0xA1) ∨
  (fieldOp w = 0xF ∧ fieldNN w ∉ ([0x07, 0x0A, 0x15, 0x18, 0x1E, 0x29, 0x33, 0x55, 0x65] : List Byte))

/-- The values of `n` family 0x8 leaves free are those its table does not name. -/
theorem mem_free_selectors8 (n : Nibble) : n ∈ ([0x8, 0x9, 0xA, 0xB, 0xC, 0xD, 0xF] : List Nibble) ↔
    n ∉ ([0x0, 0x1, 0x2, 0x3, 0x4, 0x5, 0x6, 0x7, 0xE] : List Nibble) := by
  revert n
  decide

theorem family_of_noRow {w : Word} (h : NoRow w) : fieldOp w ∈ ([0x0, 0x8, 0xE, 0xF] : List Nibble) := by
  rcases h with ⟨hop, -⟩ | ⟨hop, -⟩ | ⟨hop, -⟩ | ⟨hop, -⟩ <;> rw [hop] <;> decide

/-! ### Unknown words within each family -/

theorem noRow_of_family0 {w : Word} (hop : fieldOp w = 0x0) : NoRow w ↔ fieldNN w ≠ 0x00 ∧ fieldNN w ≠ 0x0E := by
  simp [NoRow, hop]

theorem noRow_of_family8 {w : Word} (hop : fieldOp w = 0x8) :
    NoRow w ↔ fieldN w ∉ ([0x0, 0x1, 0x2, 0x3, 0x4, 0x5, 0x6, 0x7, 0xE] : List Nibble) := by
  rw [← mem_free_selectors8]
  simp [NoRow, hop]

theorem noRow_of_familyE {w : Word} (hop : fieldOp w = 0xE) : NoRow w ↔ fieldNN w ≠ 0x9E ∧ fieldNN w ≠ 0xA1 := by
  simp [NoRow, hop]

theorem noRow_of_familyF {w : Word} (hop : fieldOp w = 0xF) :
    NoRow w ↔ fieldNN w ∉ ([0x07, 0x0A, 0x15, 0x18, 0x1E, 0x29, 0x33, 0x55, 0x65] : List Byte) := by
  simp [NoRow, hop]

/-- One line of a family's table rejects nothing of its own. -/
theorem ite_ok_eq_error {c : Prop} [Decidable c] {i : Instr} {r : Except Reject Instr} {e : Reject} :
    (if c then .ok i else r) = .error e ↔ ¬ c ∧ r = .error e := by
  split <;> simp [*]

/-- The decoder rejects exactly the words without a row, each under its own name. -/
theorem decodeWord_eq_error (w : Word) (e : Reject) : decodeWord w = .error e ↔ NoRow w ∧ .unknownWord w = e := by
  rcases family_cases w with hop | hop | hop | hop | hop
  · rw [decodeWord_eq_decode0 hop, decode0_eq_table, noRow_of_family0 hop]
    simp only [ite_ok_eq_error, Except.error.injEq, and_assoc]
  · rw [decodeWord_eq_decode8 hop, decode8_eq_table, noRow_of_family8 hop]
    simp only [ite_ok_eq_error, Except.error.injEq, List.mem_cons, List.not_mem_nil, or_false, not_or, and_assoc]
  · rw [decodeWord_eq_decodeE hop, decodeE_eq_table, noRow_of_familyE hop]
    simp only [ite_ok_eq_error, Except.error.injEq, and_assoc]
  · rw [decodeWord_eq_decodeF hop, decodeF_eq_table, noRow_of_familyF hop]
    simp only [ite_ok_eq_error, Except.error.injEq, List.mem_cons, List.not_mem_nil, or_false, not_or, and_assoc]
  · obtain ⟨i, hi, -⟩ := decodeWord_of_plainFamily hop
    have hrow : ¬ NoRow w := fun h => hop (family_of_noRow h)
    simp [hi, hrow]

theorem unknown_iff_noRow (w : Word) : decodeWord w = .error (.unknownWord w) ↔ NoRow w := by
  simp [decodeWord_eq_error]

/-- Settles O5: the words the decoder rejects, family by family. -/
theorem unknownWordsExactly : Obligations.UnknownWordsExactly := unknown_iff_noRow

/-! ### The opcode map -/

/-- The row of every instruction's word: the family of row lemmas as one statement. -/
theorem exists_row (i : Instr) : Laws.RowMatch.Statement i := by
  cases i with
  | cls x => exact Laws.RowMatch.cls x
  | ret x => exact Laws.RowMatch.ret x
  | jp nnn => exact Laws.RowMatch.jp nnn
  | call nnn => exact Laws.RowMatch.call nnn
  | sei x nn => exact Laws.RowMatch.sei x nn
  | snei x nn => exact Laws.RowMatch.snei x nn
  | se x y n => exact Laws.RowMatch.se x y n
  | ldi x nn => exact Laws.RowMatch.ldi x nn
  | addi x nn => exact Laws.RowMatch.addi x nn
  | mov x y => exact Laws.RowMatch.mov x y
  | or x y => exact Laws.RowMatch.or x y
  | and x y => exact Laws.RowMatch.and x y
  | xor x y => exact Laws.RowMatch.xor x y
  | add x y => exact Laws.RowMatch.add x y
  | sub x y => exact Laws.RowMatch.sub x y
  | shr x y => exact Laws.RowMatch.shr x y
  | subn x y => exact Laws.RowMatch.subn x y
  | shl x y => exact Laws.RowMatch.shl x y
  | sne x y n => exact Laws.RowMatch.sne x y n
  | lda nnn => exact Laws.RowMatch.lda nnn
  | jpv nnn => exact Laws.RowMatch.jpv nnn
  | rnd x nn => exact Laws.RowMatch.rnd x nn
  | drw x y n => exact Laws.RowMatch.drw x y n
  | skp x => exact Laws.RowMatch.skp x
  | sknp x => exact Laws.RowMatch.sknp x
  | gdt x => exact Laws.RowMatch.gdt x
  | wkey x => exact Laws.RowMatch.wkey x
  | sdt x => exact Laws.RowMatch.sdt x
  | sst x => exact Laws.RowMatch.sst x
  | adda x => exact Laws.RowMatch.adda x
  | fnt x => exact Laws.RowMatch.fnt x
  | bcd x => exact Laws.RowMatch.bcd x
  | stm x => exact Laws.RowMatch.stm x
  | ldm x => exact Laws.RowMatch.ldm x

/-- Two rows whose patterns agree under both masks are one row. -/
theorem rows_eq_of_compatible : ∀ p ∈ opcodeRows, ∀ q ∈ opcodeRows,
    p.pattern &&& q.mask = q.pattern &&& p.mask → p = q := by decide

/-- No word satisfies two rows: under both masks its bits are those of both patterns. -/
theorem row_unique {w : Word} {p q : OpcodeRow} (hp : p ∈ opcodeRows) (hq : q ∈ opcodeRows)
    (hpw : p.selects w = true) (hqw : q.selects w = true) : p = q := by
  simp only [OpcodeRow.selects, beq_iff_eq] at hpw hqw
  apply rows_eq_of_compatible p hp q hq
  rw [← hpw, ← hqw, BitVec.and_assoc, BitVec.and_assoc, BitVec.and_comm p.mask]

/-- A row that reads the family digit alone is in a family of one instruction, a row that reads `n` in family 0x8, and no
row's pattern is an unknown word. -/
theorem rows_shape : ∀ r ∈ opcodeRows,
    (r.mask = 0xF000 ∧ fieldOp r.pattern ∉ ([0x0, 0x8, 0xE, 0xF] : List Nibble)) ∨
    (r.mask = 0xF00F ∧ fieldOp r.pattern = 0x8 ∧ ¬ NoRow r.pattern) ∨
    (r.mask = 0xF0FF ∧ ¬ NoRow r.pattern) := by
  simp only [NoRow]
  decide

/-- Mask 0xF0FF keeps every field on which a word's being unknown depends. -/
theorem noRow_and_F0FF (w : Word) : NoRow (w &&& 0xF0FF) ↔ NoRow w := by
  have hnn : fieldNN (w &&& 0xF0FF) = fieldNN w := by
    apply BitVec.eq_of_toNat_eq
    rw [Laws.and_F0FF, toNat_fieldNN_nibbles, toNat_fieldNN_digits]
  simp only [NoRow, hnn]
  simp only [Laws.and_F0FF, fieldOp_nibbles, fieldN_nibbles]

/-- Within family 0x8 mask 0xF00F does. -/
theorem noRow_and_F00F {w : Word} (hop : fieldOp w = 0x8) : NoRow (w &&& 0xF00F) ↔ NoRow w := by
  rw [Laws.and_F00F, noRow_of_family8 hop, noRow_of_family8 ((fieldOp_nibbles ..).trans hop), fieldN_nibbles]

/-- A word a row selects is none of the unknown ones: the row reads every field on which that depends. -/
theorem not_noRow_of_selects {w : Word} {r : OpcodeRow} (hr : r ∈ opcodeRows) (h : r.selects w = true) : ¬ NoRow w := by
  obtain ⟨name, mask, pattern⟩ := r
  obtain rfl : w &&& mask = pattern := by simpa [OpcodeRow.selects] using h
  rcases rows_shape _ hr with ⟨rfl, hfam⟩ | ⟨rfl, hfam, hrow⟩ | ⟨rfl, hrow⟩
  · rw [Laws.and_F000, fieldOp_nibbles] at hfam
    exact fun h => hfam (family_of_noRow h)
  · rw [Laws.and_F00F, fieldOp_nibbles] at hfam
    rwa [noRow_and_F00F hfam] at hrow
  · rwa [noRow_and_F0FF] at hrow

/-- Settles O3: a decoded instruction has a row that selects its word, the only one to do so; an unknown word has none. -/
theorem decoderFollowsOpcodeMap : Obligations.DecoderFollowsOpcodeMap := by
  refine ⟨fun w => ?map, fun w p q hp hq hpw hqw => row_unique hp hq hpw hqw⟩
  cases h : decodeWord w with
  | ok i =>
    obtain ⟨r, hr, hname, hsel⟩ := exists_row i
    rw [encodeOfDecode w i h] at hsel
    cases hfind : opcodeRows.find? fun r => r.selects w with
    | none => exact absurd hsel (List.find?_eq_none.mp hfind r hr)
    | some q =>
      have hqw := List.find?_some hfind
      rw [row_unique (List.mem_of_find?_eq_some hfind) hr hqw hsel, Option.map_some, hname]
      rfl
  | error e =>
    obtain ⟨hrow, -⟩ := (decodeWord_eq_error w e).mp h
    rw [List.find?_eq_none.mpr fun r hr hsel => not_noRow_of_selects hr hsel hrow]
    rfl

/-! ### The bytes of an instruction -/

theorem decode_cons_cons (hi lo : Byte) (rest : List Byte) :
    decode (hi :: lo :: rest) = (decodeWord (wordOfBytes hi lo)).map (·, rest) := by
  rw [decode]
  cases decodeWord (wordOfBytes hi lo) <;> rfl

/-- Settles O6: `decode` reads the word of the first two bytes, and word and instruction determine each other. -/
theorem instructionIsTwoBytes : Obligations.InstructionIsTwoBytes := by
  refine ⟨fun i rest => ?forward, fun hi lo rest tail i h => ?back⟩
  case forward =>
    rw [encodeBytes, List.cons_append, List.cons_append, List.nil_append, decode_cons_cons, wordOfBytes_highByte_lowByte,
      decodeOfEncode i]
    rfl
  case back =>
    rw [decode_cons_cons] at h
    cases hw : decodeWord (wordOfBytes hi lo) with
    | error e => rw [hw] at h; cases h
    | ok j =>
      rw [hw] at h
      cases h
      rw [encodeOfDecode _ _ hw, highByte_wordOfBytes, lowByte_wordOfBytes]
      exact ⟨rfl, rfl, rfl⟩

/-- Settles O7: the seven words, decoded. -/
theorem sampleWordsDecode : Obligations.SampleWordsDecode := by
  unfold Obligations.SampleWordsDecode
  decide

end Sys2Proof
end

section
/-! The step (spec/40_flow.md R70): fetch, decode and what a step can do, said once. -/
namespace Sys2Proof.Machine

/-! ### Fetch -/

/-- The wrap of `pc` at 16 bits leaves no trace in an address, which is taken modulo 4096 (spec/20_memory.md R31). -/
theorem toNat_add_one_mod (p : Word) : (p + 1).toNat % 4096 = (p.toNat + 1) % 4096 := by
  rw [BitVec.toNat_add]
  simp only [BitVec.reduceToNat]
  omega

/-- Settles O9: the fetched word is built of the bytes at the two addresses. -/
theorem fetchIsBigEndian : Obligations.FetchIsBigEndian := by
  intro s
  rw [State.fetchWord, highByte_wordOfBytes, lowByte_wordOfBytes, ← toNat_add_one_mod]
  exact ⟨rfl, rfl⟩

/-- The word placed at `pc` is the one fetched, also where its two bytes straddle the end of memory. -/
theorem State.fetchWord_placeWord (s : State) (w : Word) (h : s.mem.wf) : (s.placeWord w).fetchWord = w := by
  have hwf := s.writeByte_wf s.pc.toNat (highByte w) h
  have hdistinct : (s.pc + 1).toNat % Config.memSize ≠ s.pc.toNat % Config.memSize := by
    rw [Config.memSize, toNat_add_one_mod]
    omega
  simp only [State.fetchWord, State.placeWord, State.writeByte_pc, State.readByte_writeByte _ _ _ _ hwf,
    State.readByte_writeByte _ _ _ _ h, if_neg hdistinct, if_true, wordOfBytes_highByte_lowByte]

theorem State.withFetchWord_toNat (s : State) (w : Word) : s.withFetchWord 16 w.toNat = s.placeWord w := by
  rw [State.withFetchWord, placeTableWord, tableWord, Nat.mod_eq_of_lt w.isLt, BitVec.ofNat_toNat, BitVec.setWidth_eq]

/-! ### What a step does -/

theorem step_of_decode {s : State} {i : Instr} (h : decodeWord s.fetchWord = .ok i) : step s = exec i s.advance := by
  rw [step, cycle, execWord, h]

theorem step_of_unknown {s : State} (h : decodeWord s.fetchWord = .error (.unknownWord s.fetchWord)) :
    step s = .next (s.advance.raiseDiag .unknownInstruction s.fetchWord) := by
  rw [step, cycle, execWord, h]

/-- The fetched word is unknown or an instruction, which has that word. -/
theorem State.fetched_cases (s : State) : decodeWord s.fetchWord = .error (.unknownWord s.fetchWord) ∨
    ∃ i, decodeWord s.fetchWord = .ok i ∧ encode i = s.fetchWord := by
  cases h : decodeWord s.fetchWord with
  | error e => exact .inl (((decodeWord_eq_error _ e).mp h).2 ▸ rfl)
  | ok i => exact .inr ⟨i, rfl, encodeOfDecode _ _ h⟩

/-- What a step can do: report an unknown word, or run the instruction fetched, on the advanced state. -/
theorem step_cases {s t : State} (h : step s = .next t) :
    (decodeWord s.fetchWord = .error (.unknownWord s.fetchWord) ∧
      t = s.advance.raiseDiag .unknownInstruction s.fetchWord) ∨
    ∃ i, decodeWord s.fetchWord = .ok i ∧ encode i = s.fetchWord ∧ exec i s.advance = .next t := by
  rcases s.fetched_cases with hw | ⟨i, hi, hw⟩
  · rw [step_of_unknown hw] at h
    cases h
    exact .inl ⟨hw, rfl⟩
  · rw [step_of_decode hi] at h
    exact .inr ⟨i, hi, hw, h⟩

/-- Every step answers a next state (spec/40_flow.md R70). -/
theorem step_answers_next (s : State) : ∃ t, step s = .next t := by
  rcases s.fetched_cases with hw | ⟨i, hi, -⟩
  · exact ⟨_, step_of_unknown hw⟩
  · rw [step_of_decode hi]
    exact exec_answers_next i _

/-- Settles O10: the bytes at `pc` are those of the fetched word. -/
theorem stepRunsDecodedInstruction : Obligations.StepRunsDecodedInstruction := by
  intro s i h
  have hfetch : wordOfBytes (s.readByte s.pc.toNat) (s.readByte (s.pc + 1).toNat) = s.fetchWord := rfl
  rw [decode_cons_cons, hfetch] at h
  cases hw : decodeWord s.fetchWord with
  | ok j =>
    rw [hw] at h
    cases h
    exact step_of_decode hw
  | error e =>
    rw [hw] at h
    cases h

/-- Settles O11: the word placed is fetched, and decodes to its instruction. -/
theorem placedInstructionRuns : Obligations.PlacedInstructionRuns := by
  intro s i hwf
  rw [State.withFetchWord_toNat, step_of_decode (by rw [s.fetchWord_placeWord _ hwf, decodeOfEncode i])]
  rfl

/-- Settles O12: the advance, then one report of the fetched word. -/
theorem unknownWordIsReportedNoOp : Obligations.UnknownWordIsReportedNoOp := fun _ h => step_of_unknown h

end Sys2Proof.Machine
end

section
/-! Control transfer (spec/40_flow.md section 2): the jumps, and the call stack with its two reports. -/
namespace Sys2Proof.Machine

/-! ### Jumps -/

theorem exec_jp (nnn : Addr12) (s : State) : exec (.jp nnn) s = .next (s.setPc (zext16 nnn)) := rfl

theorem exec_jpv (nnn : Addr12) (s : State) :
    exec (.jpv nnn) s = .next (s.setPc (zext16 nnn + zext16Byte (s.reg 0))) := rfl

/-- The target of `JPV` is a sum of numbers, wrapped at 16 bits (R79). -/
theorem zext16_add_zext16Byte (nnn : Addr12) (v : Byte) :
    zext16 nnn + zext16Byte v = BitVec.ofNat 16 (nnn.toNat + v.toNat) := by
  rw [BitVec.ofNat_add, zext16_eq_ofNat, zext16Byte, BitVec.ofNat_toNat 16 v]

/-- Settles O16: the targets as numbers; a `JP` to its own address sets `pc` back to what it was before the advance. -/
theorem jumpResults : Obligations.JumpResults := by
  refine ⟨fun s nnn => ?jp, fun s nnn hw hpc => ?self, fun s nnn => ?jpv⟩
  case jp =>
    rw [← zext16_eq_ofNat]
    exact exec_jp nnn s
  case self =>
    rw [step_of_decode hw, exec_jp, zext16_eq_ofNat, ← hpc, BitVec.ofNat_toNat, BitVec.setWidth_eq]
    rfl
  case jpv =>
    have hwrap (n : Nat) : BitVec.ofNat 16 (n % 65536) = BitVec.ofNat 16 n := BitVec.eq_of_toNat_eq (by simp)
    rw [hwrap, ← zext16_add_zext16Byte]
    exact exec_jpv nnn s

/-! ### The call stack -/

theorem exec_call_of_push {s t : State} (nnn : Addr12) (h : s.push s.pc = some t) :
    exec (.call nnn) s = .next (t.setPc (zext16 nnn)) := by
  simp only [exec, execCall, h]

theorem exec_ret_of_pop {s t : State} {target : Word} (x : Nibble) (h : s.pop = some (target, t)) :
    exec (.ret x) s = .next (t.setPc target) := by
  simp only [exec, execRet, h]

theorem State.sp_eq_of_not_lt {s : State} (h : ¬ s.sp.val < 16) : s.sp.val = 16 :=
  Nat.le_antisymm (Nat.le_of_lt_succ s.sp.isLt) (Nat.not_lt.mp h)

theorem exec_call_full {s : State} (nnn : Addr12) (h : s.sp.val = 16) :
    exec (.call nnn) s = .next (s.raiseDiag .stackOverflow (encode (.call nnn))) := by
  simp only [exec, execCall, s.push_full s.pc (by omega)]

theorem exec_ret_empty {s : State} (x : Nibble) (h : s.sp.val = 0) :
    exec (.ret x) s = .next (s.raiseDiag .stackUnderflow (encode (.ret x))) := by
  simp only [exec, execRet, s.pop_empty (by omega)]

/-- Settles O21: the refused push and pop, each reported with the instruction's word. -/
theorem stackMisuseIsReportedNoOp : Obligations.StackMisuseIsReportedNoOp :=
  ⟨fun _ nnn h => exec_call_full nnn h, fun _ x h => exec_ret_empty x h⟩

/-- Settles O19: the push changes the stack and `sp`, the jump `pc`. -/
theorem callPushesAndJumps : Obligations.CallPushesAndJumps := by
  intro s nnn hsp
  have hpush := s.push_of_lt s.pc hsp
  obtain ⟨-, hsp', hstack, hframe⟩ := State.push_cases hpush
  refine ⟨_, exec_call_of_push nnn hpush, ?target, hsp', hstack, rfl, fun _ => rfl⟩
  rw [State.setPc_pc, zext16, BitVec.toNat_setWidth]
  omega

/-- Settles O20: the pop changes `sp` alone, and its value is the target. -/
theorem retPops : Obligations.RetPops := by
  intro s x k hk hsp
  have hpop := s.pop_of_pos (by omega)
  refine ⟨_, exec_ret_of_pop x hpop, ?target, ?sp, rfl, fun _ => rfl⟩
  case target => simp [hsp]
  case sp => simp [hsp]

/-- A pop takes back what the last push put in, with a jump and the fetch at its target in between. -/
theorem State.pop_of_push {s t : State} {v : Word} (p : Word) (h : s.push v = some t) :
    (t.setPc p).advance.pop = some (v, { s with stack := t.stack, pc := p + 2 }) := by
  obtain ⟨hlt, -, -, -⟩ := State.push_cases h
  obtain rfl := Option.some.inj ((s.push_of_lt v hlt).symm.trans h)
  rw [State.pop_of_pos _ (Nat.succ_pos _)]
  simp only [State.advance_eq, State.setPc_stack, State.setPc_sp, Nat.add_sub_cancel, Vector.getElem_set_self]
  rfl

/-- Settles O22: the `RET` pops what the `CALL` pushed; the slots below `sp` are those of before. -/
theorem retUndoesCall : Obligations.RetUndoesCall := by
  intro s nnn x hsp
  have hpush := s.push_of_lt s.pc hsp
  obtain ⟨-, -, hstack, -⟩ := State.push_cases hpush
  refine ⟨_, _, exec_call_of_push nnn hpush, exec_ret_of_pop x (State.pop_of_push _ hpush), rfl, rfl,
    fun k hk hlt => ?below, rfl⟩
  exact (hstack k hk).trans (if_neg (Nat.ne_of_lt hlt))

end Sys2Proof.Machine
end

section
/-! Reports (spec/60_exceptions.md section 1): when a step records one, and that it then does nothing else. -/
namespace Sys2Proof.Machine

theorem State.raiseDiag_diags_ne (s : State) (kind : DiagKind) (w : Word) : (s.raiseDiag kind w).diags ≠ s.diags := by
  simp

/-- An instruction records a report exactly when it is refused by the call stack (R142, R143). -/
theorem exec_diags_ne_iff {i : Instr} {s t : State} (h : exec i s = .next t) :
    t.diags ≠ s.diags ↔ (∃ nnn, i = .call nnn ∧ s.sp.val = 16) ∨ ∃ x, i = .ret x ∧ s.sp.val = 0 := by
  constructor
  · intro hne
    rcases exec_reports h with hsame | ⟨nnn, rfl, hsp, -⟩ | ⟨x, rfl, hsp, -⟩
    · exact absurd hsame hne
    · exact .inl ⟨nnn, rfl, congrArg Fin.val hsp⟩
    · exact .inr ⟨x, rfl, congrArg Fin.val hsp⟩
  · rintro (⟨nnn, rfl, hsp⟩ | ⟨x, rfl, hsp⟩)
    · rw [exec_call_full nnn hsp] at h
      cases h
      exact s.raiseDiag_diags_ne _ _
    · rw [exec_ret_empty x hsp] at h
      cases h
      exact s.raiseDiag_diags_ne _ _

/-- A step keeps the record, or only adds one report of its own word on the advanced state. -/
theorem step_reports {s t : State} (h : step s = .next t) :
    t.diags = s.diags ∨ ∃ kind, t = s.advance.raiseDiag kind s.fetchWord := by
  rcases step_cases h with ⟨-, ht⟩ | ⟨i, -, hw, hexec⟩
  · exact .inr ⟨_, ht⟩
  · rw [← hw]
    rcases exec_reports hexec with hsame | ⟨_, -, -, ht⟩ | ⟨_, -, -, ht⟩
    · exact .inl hsame
    · exact .inr ⟨_, ht⟩
    · exact .inr ⟨_, ht⟩

/-- Settles O13: every step answers, and `step_reports` says what it does to the record. -/
theorem stepIsTotalAndPrecise : Obligations.StepIsTotalAndPrecise := by
  intro s
  obtain ⟨t, ht⟩ := step_answers_next s
  exact ⟨t, ht, step_reports ht⟩

/-- Settles O14: an unknown word is always reported, an instruction exactly when the call stack refuses it. -/
theorem reportedExactlyWhen : Obligations.ReportedExactlyWhen := by
  intro s t h
  rcases step_cases h with ⟨hw, rfl⟩ | ⟨i, hi, -, hexec⟩
  · exact iff_of_true (s.advance.raiseDiag_diags_ne _ _) (.inl hw)
  · refine (exec_diags_ne_iff hexec).trans ?_
    simp [hi]

/-- Settles O59: what a step appends to the record is what its reply carries. -/
theorem stepReplyCarriesReports : Obligations.StepReplyCarriesReports := by
  intro s
  obtain ⟨t, ht⟩ := step_answers_next s
  have hreply : reply .step s = .stepped (t.diags.drop s.diags.length) := by simp only [reply, ht]
  rcases step_reports ht with hsame | ⟨kind, rfl⟩
  · exact ⟨t, [], ht, by rw [hreply, hsame, List.drop_length], by rw [hsame, List.append_nil], Nat.zero_le 1⟩
  · exact ⟨_, _, ht, by rw [hreply]; exact congrArg Reply.stepped List.drop_left, rfl, Nat.le_refl 1⟩

end Sys2Proof.Machine
end

section
/-! What each instruction writes (spec/10_state.md section 1): the frames of the instructions that are no single update of
the state, and the summary table. -/
namespace Sys2Proof.Machine

theorem exec_call_frame {nnn : Addr12} {s t : State} (h : exec (.call nnn) s = .next t) :
    ∃ stack sp pc diags, t = { s with stack := stack, sp := sp, pc := pc, diags := diags } := by
  cases hp : s.push s.pc with
  | none =>
    simp only [exec, execCall, hp] at h
    cases h
    exact ⟨_, _, _, _, rfl⟩
  | some u =>
    obtain ⟨-, -, -, hframe⟩ := State.push_cases hp
    rw [exec_call_of_push nnn hp, hframe] at h
    cases h
    exact ⟨_, _, _, _, rfl⟩

theorem exec_ret_frame {x : Nibble} {s t : State} (h : exec (.ret x) s = .next t) :
    ∃ sp pc diags, t = { s with sp := sp, pc := pc, diags := diags } := by
  cases hp : s.pop with
  | none =>
    simp only [exec, execRet, hp] at h
    cases h
    exact ⟨_, _, _, rfl⟩
  | some p =>
    obtain ⟨-, -, hframe⟩ := State.pop_cases hp
    rw [exec_ret_of_pop x hp, hframe] at h
    cases h
    exact ⟨_, _, _, rfl⟩

theorem exec_wkey_frame {x : Nibble} {s t : State} (h : exec (.wkey x) s = .next t) :
    ∃ V pc, t = { s with V := V, pc := pc } := by
  simp only [exec, execWkey] at h
  split at h <;> cases h
  · exact ⟨_, _, rfl⟩
  · exact ⟨_, _, rfl⟩

theorem exec_bcd_frame {x : Nibble} {s t : State} (h : exec (.bcd x) s = .next t) : ∃ mem, t = { s with mem := mem } := by
  cases h
  exact ⟨_, s.storeBytes_eq _ _⟩

theorem exec_stm_frame {x : Nibble} {s t : State} (h : exec (.stm x) s = .next t) : ∃ mem, t = { s with mem := mem } := by
  cases h
  exact ⟨_, s.storeBytes_eq _ _⟩

theorem exec_ldm_frame {x : Nibble} {s t : State} (h : exec (.ldm x) s = .next t) : ∃ V, t = { s with V := V } := by
  cases h
  exact ⟨_, s.loadRegs_eq _ _⟩

/-- Settles O45: every instruction's update, field by field. -/
theorem stateWrittenOnlyByNamed : Obligations.StateWrittenOnlyByNamed := by
  intro i s t h
  cases i
  case call nnn => obtain ⟨_, _, _, _, rfl⟩ := exec_call_frame h; simp [mnemonic]
  case ret x => obtain ⟨_, _, _, rfl⟩ := exec_ret_frame h; simp [mnemonic]
  case wkey x => obtain ⟨_, _, rfl⟩ := exec_wkey_frame h; simp [mnemonic]
  case bcd x => obtain ⟨_, rfl⟩ := exec_bcd_frame h; simp [mnemonic]
  case stm x => obtain ⟨_, rfl⟩ := exec_stm_frame h; simp [mnemonic]
  case ldm x => obtain ⟨_, rfl⟩ := exec_ldm_frame h; simp [mnemonic]
  all_goals
    cases h
    simp [mnemonic, State.skipIf_eq]

/-! ### From the table: memory and the registers -/

/-- Settles O46: `BCD` and `STM` alone write memory. -/
theorem onlyStoresChangeMemory : Obligations.OnlyStoresChangeMemory := by
  intro i s t h hi a
  obtain ⟨-, -, -, -, -, -, hmem, -⟩ := stateWrittenOnlyByNamed i s t h
  have hsame : t.mem = s.mem := not_not.mp (mt hmem hi)
  rw [State.readByte, State.readByte, hsame]

@[simp] theorem State.reg_setFb (s : State) (v : Framebuffer) (k : Nibble) : (s.setFb v).reg k = s.reg k := rfl

@[simp] theorem State.reg_toggleDirty (s : State) (k : Nibble) : s.toggleDirty.reg k = s.reg k := rfl

@[simp] theorem State.reg_countDraw (s : State) (k : Nibble) : s.countDraw.reg k = s.reg k := rfl

/-- `LDM Vx` loads the registers up to `x`, `x` included (R115). -/
theorem State.reg_loadRegs_succ (s : State) (x k : Nibble) : (s.loadRegs s.base (x.toNat + 1)).reg k =
    if k.toNat ≤ x.toNat then s.readByte (s.base + k.toNat) else s.reg k := by
  rw [State.reg_loadRegs _ _ _ (Nat.succ_le_of_lt x.isLt)]
  simp only [Nat.lt_succ_iff]

/-- Settles O47: an instruction that changes the register file is one of the table's, and sets the registers it may. -/
theorem otherRegistersKept : Obligations.OtherRegistersKept := by
  intro i s t k h hk
  by_cases hV : t.V = s.V
  · exact (State.V_ext t s).mp hV k
  · have hwriter := (stateWrittenOnlyByNamed i s t h).1 hV
    cases i
    case ldm x =>
      cases h
      exact (s.reg_loadRegs_succ x k).trans (if_neg hk)
    case wkey x =>
      simp only [exec, execWkey] at h
      split at h <;> cases h
      · rfl
      · exact (s.reg_setReg x k _).trans (if_neg hk)
    all_goals simp [mnemonic] at hwriter
    all_goals
      cases h
      simp_all [mayWrite, State.reg_setReg]

end Sys2Proof.Machine
end

section
/-! Results of spec/41_alu.md that also write the flag register, the random byte, and the digits no instruction reads. -/
namespace Sys2Proof.Machine

/-! ### Two registers set, the second over the first -/

/-- An instruction whose meaning is `V[x] <- v; V[y] <- w` (R103): where the two are one register the later write survives. -/
theorem answersRegs_of_setReg_setReg {i : Instr} {s : State} {x y : Nibble} {v w : Byte}
    (hexec : exec i s = .next ((s.setReg x v).setReg y w)) :
    AnswersRegs i s (fun k => if k = y then w else if k = x then v else s.reg k) :=
  ⟨_, hexec, fun k => by rw [State.reg_setReg, State.reg_setReg], rfl, fun _ => rfl⟩

theorem exec_add (x y : Nibble) (s : State) : exec (.add x y) s =
    .next ((s.setReg x (s.reg x + s.reg y)).setReg 0xF (carry (s.reg x) (s.reg y))) := rfl

theorem exec_sub (x y : Nibble) (s : State) : exec (.sub x y) s =
    .next ((s.setReg x (s.reg x - s.reg y)).setReg 0xF (borrow (s.reg x) (s.reg y))) := rfl

theorem exec_subn (x y : Nibble) (s : State) : exec (.subn x y) s =
    .next ((s.setReg x (s.reg y - s.reg x)).setReg 0xF (borrow (s.reg y) (s.reg x))) := rfl

theorem exec_shr (x y : Nibble) (s : State) : exec (.shr x y) s =
    .next ((s.setReg 0xF (lowBit (s.reg x))).setReg x ((s.setReg 0xF (lowBit (s.reg x))).reg x >>> 1)) := rfl

theorem exec_shl (x y : Nibble) (s : State) : exec (.shl x y) s =
    .next ((s.setReg 0xF (highBit (s.reg x))).setReg x ((s.setReg 0xF (highBit (s.reg x))).reg x <<< 1)) := rfl

theorem exec_rnd (x : Nibble) (nn : Byte) (s : State) :
    exec (.rnd x nn) s = .next (s.countDraw.setReg x (s.randByte &&& nn)) := rfl

/-! ### Bytes as numbers -/

/-- The difference of two bytes is that of their numbers, wrapped at 256 (R97, R99). -/
theorem byte_sub_eq_ofNat (a b : Byte) : a - b = BitVec.ofNat 8 ((a.toNat + 256 - b.toNat) % 256) := by
  apply BitVec.eq_of_toNat_eq
  rw [BitVec.toNat_sub, BitVec.toNat_ofNat]
  omega

theorem carry_eq (a b : Byte) : carry a b = if a.toNat + b.toNat > 255 then 1 else 0 := by
  simp only [carry, flagByte, decide_eq_true_eq]

theorem borrow_eq (a b : Byte) : borrow a b = if a.toNat < b.toNat then 1 else 0 := by
  simp only [borrow, flagByte, decide_eq_true_eq]

theorem byte_shiftRight_eq_ofNat (a : Byte) : a >>> 1 = BitVec.ofNat 8 (a.toNat / 2) := by
  apply BitVec.eq_of_toNat_eq
  rw [BitVec.toNat_ushiftRight, BitVec.toNat_ofNat, Nat.shiftRight_eq_div_pow]
  omega

theorem byte_shiftLeft_eq_ofNat (a : Byte) : a <<< 1 = BitVec.ofNat 8 (a.toNat * 2 % 256) := by
  apply BitVec.eq_of_toNat_eq
  rw [BitVec.toNat_shiftLeft, BitVec.toNat_ofNat, Nat.shiftLeft_eq]
  omega

/-- The bit `SHR` shifts out is the byte's number modulo 2 (R98). -/
theorem lowBit_eq_ofNat (a : Byte) : lowBit a = BitVec.ofNat 8 (a.toNat % 2) := by
  revert a
  decide

/-- The bit `SHL` shifts out says whether the byte's number is at least 128 (R100). -/
theorem highBit_eq_ofNat (a : Byte) : highBit a = BitVec.ofNat 8 (a.toNat / 128) := by
  revert a
  decide

theorem lowBit_shiftRight (a : Byte) : lowBit a >>> 1 = 0 := by
  revert a
  decide

theorem highBit_shiftLeft (a : Byte) : highBit a <<< 1 = if 128 ≤ a.toNat then (2 : Byte) else 0 := by
  revert a
  decide

/-- Settles O25: the result written to `V[x]`, then the flag over it. -/
theorem arithmeticResults : Obligations.ArithmeticResults := by
  intro s x y
  rw [← byte_add_eq_ofNat, ← byte_sub_eq_ofNat, ← byte_sub_eq_ofNat, ← carry_eq, ← borrow_eq, ← borrow_eq]
  exact ⟨answersRegs_of_setReg_setReg (exec_add x y s), answersRegs_of_setReg_setReg (exec_sub x y s),
    answersRegs_of_setReg_setReg (exec_subn x y s)⟩

/-- Settles O26: the flag written first, then `V[x]` read again and shifted; with `x` = 15 that is the flag. -/
theorem shiftResults : Obligations.ShiftResults := by
  intro s x y
  rw [← byte_shiftRight_eq_ofNat, ← byte_shiftLeft_eq_ofNat, ← lowBit_eq_ofNat, ← highBit_eq_ofNat]
  have hshr : (s.setReg 0xF (lowBit (s.reg x))).reg x >>> 1 = if x = 0xF then (0 : Byte) else s.reg x >>> 1 := by
    rw [State.reg_setReg]
    split
    · exact lowBit_shiftRight _
    · rfl
  have hshl : (s.setReg 0xF (highBit (s.reg x))).reg x <<< 1 =
      if x = 0xF then (if 128 ≤ (s.reg x).toNat then (2 : Byte) else 0) else s.reg x <<< 1 := by
    rw [State.reg_setReg]
    split
    · exact highBit_shiftLeft _
    · rfl
  rw [← hshr, ← hshl]
  exact ⟨answersRegs_of_setReg_setReg (exec_shr x y s), answersRegs_of_setReg_setReg (exec_shl x y s)⟩

/-- Settles O27: the byte drawn is masked, so that no bit outside `nn` is left. -/
theorem randomResult : Obligations.RandomResult := by
  intro s x nn
  refine ⟨_, exec_rnd x nn s, fun k => State.reg_setReg .., ?_, rfl, fun _ => rfl⟩
  rw [State.reg_setReg_self, BitVec.and_assoc]
  simp

/-- Settles O8: the digit takes no part in the meaning; that of `RET` only in the report of an empty stack. -/
theorem dontCareDigitsIgnored : Obligations.DontCareDigitsIgnored := by
  intro s x y a b
  refine ⟨rfl, fun hsp => ?ret, rfl, rfl, rfl, rfl⟩
  have hpop := s.pop_of_pos (Fin.pos_iff_ne_zero.mpr hsp)
  rw [exec_ret_of_pop a hpop, exec_ret_of_pop b hpop]

end Sys2Proof.Machine
end

section
/-! Memory instructions (spec/42_index_memory.md section 2): the digit store, the register dump and the register load. -/
namespace Sys2Proof.Machine

/-- An address counts modulo 4096 alone (spec/20_memory.md R31). -/
theorem State.readByte_congr (s : State) {a b : Nat} (h : a % 4096 = b % 4096) : s.readByte a = s.readByte b := by
  rw [State.readByte, State.readByte, Config.memSize, h]

theorem exec_bcd (x : Nibble) (s : State) : exec (.bcd x) s = .next (s.storeBytes s.base (bcdDigits (s.reg x))) := rfl

theorem exec_stm (x : Nibble) (s : State) : exec (.stm x) s = .next (s.storeBytes s.base (s.lowRegs (x.toNat + 1))) := rfl

theorem exec_ldm (x : Nibble) (s : State) : exec (.ldm x) s = .next (s.loadRegs s.base (x.toNat + 1)) := rfl

/-- Settles O30: the three stored bytes are read back at their addresses, and no other address is written. -/
theorem digitStoreResult : Obligations.DigitStoreResult := by
  intro s x hwf
  have stored := s.readByte_storeBytes_self s.I.toNat (bcdDigits (s.reg x)) hwf (by simp [bcdDigits, Config.memSize])
  refine ⟨_, exec_bcd x s, fun a => ?bytes, s.storeBytes_eq _ _⟩
  split_ifs with h0 h1 h2
  · exact (State.readByte_congr _ h0).trans (stored 0 (by simp [bcdDigits]))
  · exact (State.readByte_congr _ h1).trans (stored 1 (by simp [bcdDigits]))
  · exact (State.readByte_congr _ h2).trans (stored 2 (by simp [bcdDigits]))
  · refine s.readByte_storeBytes_other _ _ _ hwf fun k hk => ?_
    have hk3 : k < 3 := hk
    simp only [State.base, Config.memSize]
    omega

/-- Settles O31: the `k`-th stored byte is `V[k]`, and the addresses written are those from `I` to `I + x`. -/
theorem registerDumpResult : Obligations.RegisterDumpResult := by
  intro s x hwf
  have hx := x.isLt
  refine ⟨_, exec_stm x s, fun k hk => ?stored, fun a ha => ?others, s.storeBytes_eq _ _⟩
  case stored =>
    have hlen : k.toNat < (s.lowRegs (x.toNat + 1)).length := by rw [State.length_lowRegs]; omega
    have hmax : (s.lowRegs (x.toNat + 1)).length ≤ Config.memSize := by rw [State.length_lowRegs, Config.memSize]; omega
    refine (s.readByte_storeBytes_self _ _ hwf hmax k.toNat hlen).trans ?_
    rw [State.getElem_lowRegs, BitVec.ofNat_toNat, BitVec.setWidth_eq]
  case others =>
    refine s.readByte_storeBytes_other _ _ _ hwf fun k hk => (ha k ?_).symm
    rw [State.length_lowRegs] at hk
    omega

/-- Settles O32: the registers up to `x` are the bytes from `I` on. -/
theorem registerLoadResult : Obligations.RegisterLoadResult := fun s x =>
  ⟨_, exec_ldm x s, s.reg_loadRegs_succ x, s.loadRegs_eq _ _, fun a => by rw [s.loadRegs_eq]; rfl⟩

/-- Settles O33: the bytes the load reads are those the dump stored. -/
theorem dumpThenLoadRoundTrips : Obligations.DumpThenLoadRoundTrips := by
  intro s u x hwf
  obtain ⟨t, ht, hstored, -, -⟩ := registerDumpResult s x hwf
  refine ⟨t, ht, fun hmem hI => ?_⟩
  obtain ⟨v, hv, hloaded, -, -⟩ := registerLoadResult u x
  refine ⟨v, hv, fun k hk => ?_⟩
  calc v.reg k = u.mem.get ((u.I.toNat + k.toNat) % 4096) := (hloaded k).trans (if_pos hk)
    _ = t.readByte (s.I.toNat + k.toNat) := by rw [hmem, hI]; rfl
    _ = s.reg k := hstored k hk

/-- Settles O34: the two bytes at `pc` are the first two of the dump. -/
theorem storeIsSeenByNextFetch : Obligations.StoreIsSeenByNextFetch := by
  intro s x hwf hx hpc
  obtain ⟨t, ht, hstored, -, hframe⟩ := registerDumpResult s x hwf
  have hpc' : t.pc = s.pc := by rw [hframe]
  have hnext : (s.pc + 1).toNat % 4096 = (s.I.toNat + 1) % 4096 := by
    rw [toNat_add_one_mod]
    omega
  refine ⟨t, ht, ?_⟩
  rw [State.fetchWord, hpc', t.readByte_congr hpc, t.readByte_congr hnext]
  exact congrArg₂ wordOfBytes (hstored 0 (Nat.zero_le _)) (hstored 1 hx)

end Sys2Proof.Machine
end

section
/-! The framebuffer (spec/43_display.md): what a sprite covers, and that drawing it twice restores what was there. -/
namespace Sys2Proof.Machine

/-! ### The cells of a sprite -/

/-- The cells `DRW` visits are those a set bit of the sprite falls on (R121). -/
theorem State.mem_spriteCells_iff (s : State) (x0 y0 n : Nat) (r : Fin 32) (c : Fin 64) :
    (r, c) ∈ s.spriteCells x0 y0 n ↔ SpriteCovers s x0 y0 n r c := by
  simp only [State.mem_spriteCells, SpriteCovers, State.base, Prod.mk.injEq, cellRow, cellCol, Fin.ext_iff]

section
variable (fb : Framebuffer) {cells : List (Fin 32 × Fin 64)} (hcells : cells.Nodup)
include hcells

/-- Drawing inverts the cells drawn and no other. -/
theorem draw_cell_ne_iff (r : Fin 32) (c : Fin 64) : (draw fb cells).1.cell r c ≠ fb.cell r c ↔ (r, c) ∈ cells := by
  rw [draw, (foldl_plot cells fb false hcells).1 r c]
  by_cases h : (r, c) ∈ cells <;> simp [h]

/-- A collision is a drawn cell that was set. -/
theorem draw_hit : (draw fb cells).2 = true ↔ ∃ r c, fb.cell r c = true ∧ (r, c) ∈ cells := by
  rw [draw, (foldl_plot cells fb false hcells).2, Bool.false_or, List.any_eq_true]
  simp only [Prod.exists, and_comm]

end

theorem flagByte_cases (c : Bool) : (flagByte c = 1 ∧ c = true) ∨ (flagByte c = 0 ∧ ¬ c = true) := by
  cases c
  · exact .inr ⟨rfl, Bool.false_ne_true⟩
  · exact .inl ⟨rfl, rfl⟩

/-! ### The two instructions -/

theorem exec_cls (x : Nibble) (s : State) : exec (.cls x) s = .next ((s.setFb Framebuffer.clear).toggleDirty) := rfl

/-- `DRW` draws the cells of its sprite; the flag is the collision. -/
theorem exec_drw {x y n : Nibble} {s : State} {cells : List (Fin 32 × Fin 64)}
    (hcells : s.spriteCells (s.reg x).toNat (s.reg y).toNat n.toNat = cells) : exec (.drw x y n) s =
      .next (((s.setFb (draw s.fb cells).1).setReg 0xF (flagByte (draw s.fb cells).2)).toggleDirty) := by
  rw [← hcells]
  rfl

/-- Settles O35: the clear framebuffer has no cell set. -/
theorem clearResult : Obligations.ClearResult := fun s x =>
  ⟨_, exec_cls x s, Framebuffer.cell_clear, rfl, rfl, fun _ => rfl⟩

/-- Settles O36: the cells drawn are those the sprite covers, no one twice. -/
theorem drawResult : Obligations.DrawResult := by
  intro s x y n
  have hrows : n.toNat ≤ 32 := Nat.le_of_lt (Nat.lt_trans n.isLt (by decide))
  have hnodup := s.nodup_spriteCells (s.reg x).toNat (s.reg y).toNat n.toNat hrows
  simp only [← State.mem_spriteCells_iff]
  generalize hcells : s.spriteCells (s.reg x).toNat (s.reg y).toNat n.toNat = cells at hnodup ⊢
  refine ⟨_, exec_drw hcells, draw_cell_ne_iff s.fb hnodup, ?flag, fun k hk => ?registers, rfl, rfl, fun _ => rfl⟩
  case flag =>
    rw [State.reg_toggleDirty, State.reg_setReg_self, ← draw_hit s.fb hnodup]
    exact flagByte_cases _
  case registers => exact (State.reg_setReg _ _ _ _).trans (if_neg hk)

/-- Settles O37: the second draw covers the cells of the first, and finds set those the first found clear. -/
theorem drawTwiceRestores : Obligations.DrawTwiceRestores := by
  intro s x y n hx hy
  obtain ⟨t, ht, hcells, -, hregs, hdirty, hframe, -⟩ := drawResult s x y n
  obtain ⟨u, hu, hcells', hflag, -, hdirty', -, -⟩ := drawResult t x y n
  have hcovers (r : Fin 32) (c : Fin 64) : SpriteCovers t (t.reg x).toNat (t.reg y).toNat n.toNat r c ↔
      SpriteCovers s (s.reg x).toNat (s.reg y).toNat n.toNat r c := by
    rw [hregs x hx, hregs y hy, hframe]
    rfl
  simp only [hcovers] at hcells' hflag
  refine ⟨t, u, ht, hu, Framebuffer.ext_cell fun r c => ?restored, by rw [hdirty', hdirty, Bool.not_not], ?flag⟩
  case restored =>
    have twice : ∀ a b d : Bool, (d ≠ b ↔ b ≠ a) → d = a := by decide
    exact twice _ _ _ ((hcells' r c).trans (hcells r c).symm)
  case flag =>
    have hinverted : (∃ r c, t.fb.cell r c = true ∧ SpriteCovers s (s.reg x).toNat (s.reg y).toNat n.toNat r c) ↔
        ∃ r c, s.fb.cell r c = false ∧ SpriteCovers s (s.reg x).toNat (s.reg y).toNat n.toNat r c := by
      refine exists_congr fun r => exists_congr fun c => and_congr_left fun hc => ?_
      rw [Bool.eq_not_of_ne ((hcells r c).mpr hc), Bool.not_eq_true']
    rw [← hinverted]
    rcases hflag with ⟨hone, hset⟩ | ⟨hzero, hclear⟩
    · exact iff_of_true hone hset
    · exact iff_of_false (by rw [hzero]; decide) hclear

end Sys2Proof.Machine
end

section
/-! Skips on registers and keys (spec/40_flow.md section 3, spec/44_keys_timers.md section 1), the key wait, and the timers. -/
namespace Sys2Proof.Machine

/-! ### Skips -/

theorem exec_se (x y n : Nibble) (s : State) : exec (.se x y n) s = .next (s.skipIf (s.reg x == s.reg y)) := rfl

theorem exec_sne (x y n : Nibble) (s : State) : exec (.sne x y n) s = .next (s.skipIf (s.reg x != s.reg y)) := rfl

theorem exec_skp (x : Nibble) (s : State) : exec (.skp x) s = .next (s.skipIf (s.keyHeld (s.reg x))) := rfl

theorem exec_sknp (x : Nibble) (s : State) : exec (.sknp x) s = .next (s.skipIf (!s.keyHeld (s.reg x))) := rfl

theorem State.keyHeld_iff (s : State) (v : Byte) : s.keyHeld v = true ↔ s.keys.getLsbD (v.toNat % 16) = true := Iff.rfl

theorem State.not_keyHeld_iff (s : State) (v : Byte) :
    (!s.keyHeld v) = true ↔ ¬ s.keys.getLsbD (v.toNat % 16) = true := by
  rw [Bool.not_eq_true', ← Bool.not_eq_true, s.keyHeld_iff]

/-- Settles O18: the comparison of the two registers is that of their numbers. -/
theorem skipOnRegisterResults : Obligations.SkipOnRegisterResults := fun s x y n =>
  ⟨answersPc_of_skipIf (exec_se x y n s) (by rw [beq_iff_eq, BitVec.toNat_inj]),
    answersPc_of_skipIf_not (exec_sne x y n s) (by rw [bne_iff_ne, BitVec.toNat_inj])⟩

/-- Settles O38: the condition is the key `V[x]` modulo 16, or that it is not held. -/
theorem keySkipResults : Obligations.KeySkipResults := fun s x =>
  ⟨answersPc_of_skipIf (exec_skp x s) (s.keyHeld_iff _),
    answersPc_of_skipIf_not (exec_sknp x s) (s.not_keyHeld_iff _)⟩

/-! ### The key wait -/

theorem exec_wkey_held (x : Nibble) {s : State} {k : Nat} (h : leastKey s.keys = some k) :
    exec (.wkey x) s = .next (s.setReg x (BitVec.ofNat 8 k)) := by
  simp only [exec, execWkey, h]

theorem exec_wkey_idle (x : Nibble) {s : State} (h : s.keys = 0) : exec (.wkey x) s = .next (s.setPc (s.pc - 2)) := by
  simp only [exec, execWkey, (leastKey_eq_none s.keys).mpr h]

/-- Settles O39: the key described is the least one held. -/
theorem waitKeyCompletes : Obligations.WaitKeyCompletes := fun s x j hj hheld hleast =>
  answersRegs_of_setReg (exec_wkey_held x ((leastKey_eq_some s.keys j).mpr ⟨hj, hheld, hleast⟩))

/-- Settles O40: the instruction takes back the advance. -/
theorem waitKeyWaits : Obligations.WaitKeyWaits := by
  intro s x hw hkeys
  have hidle : s.advance.keys = 0 := hkeys
  rw [step_of_decode hw, exec_wkey_idle x hidle, State.advance_eq, State.setPc_pc, BitVec.add_sub_cancel]
  rfl

/-! ### Timers -/

theorem exec_gdt (x : Nibble) (s : State) : exec (.gdt x) s = .next (s.setReg x s.DT) := rfl

theorem exec_sdt (x : Nibble) (s : State) : exec (.sdt x) s = .next (s.setDT (s.reg x)) := rfl

theorem exec_sst (x : Nibble) (s : State) : exec (.sst x) s = .next (s.setST (s.reg x)) := rfl

/-- Settles O41: the words are those the encoder builds; each instruction is one update. -/
theorem timerInstructionResults : Obligations.TimerInstructionResults := fun s x =>
  ⟨decodeOfEncode (.gdt x), decodeOfEncode (.sdt x), decodeOfEncode (.sst x), answersRegs_of_setReg (exec_gdt x s),
    exec_sdt x s, exec_sst x s⟩

/-- A timer is one lower after a tick, with a floor at 0 (R136). -/
theorem toNat_countDown (v : Byte) : (countDown v).toNat = v.toNat - 1 := by
  revert v
  decide

/-- Settles O42: both timers count down, in one event. -/
theorem timerTickResult : Obligations.TimerTickResult := fun s =>
  ⟨timerTick s, rfl, toNat_countDown s.DT, toNat_countDown s.ST, rfl⟩

theorem runSchedule_cons {x : Transaction} {s t : State} (xs : List Transaction) (h : transact x s = .next t) :
    runSchedule (x :: xs) s = runSchedule xs t := by
  rw [runSchedule, h]

theorem runSchedule_pair {x y : Transaction} {s t u : State} (hx : transact x s = .next t)
    (hy : transact y t = .next u) : runSchedule [x, y] s = .next u := by
  rw [runSchedule_cons _ hx, runSchedule_cons _ hy, runSchedule]

theorem step_sdt {s : State} {x : Nibble} (h : decodeWord s.fetchWord = .ok (.sdt x)) :
    step s = .next (s.advance.setDT (s.reg x)) := step_of_decode h

/-- Settles O43: the tick counts down what `SDT` wrote, or what it is about to overwrite. -/
theorem setTimerAndTickSerialise : Obligations.SetTimerAndTickSerialise := by
  intro s x hw
  have htick : step (timerTick s) = .next ((timerTick s).advance.setDT (s.reg x)) := step_sdt hw
  exact ⟨⟨_, runSchedule_pair (step_sdt hw) rfl, toNat_countDown (s.reg x)⟩, _, runSchedule_pair rfl htick, rfl⟩

end Sys2Proof.Machine
end

section
/-! The flag register (spec/10_state.md R11) and the net effect of a step on `pc` (spec/40_flow.md R80). -/
namespace Sys2Proof.Machine

/-! ### Results read off an answer -/

theorem AnswersRegs.reg_eq {i : Instr} {s t : State} {f : Nibble → Byte} (h : AnswersRegs i s f)
    (ht : exec i s = .next t) (k : Nibble) : t.reg k = f k := by
  obtain ⟨u, hu, hregs, -⟩ := h
  cases hu.symm.trans ht
  exact hregs k

/-! ### The flag register -/

theorem not_mayWrite_flag {i : Instr} (hi : mnemonic i ∉ ["ADD", "SUB", "SHR", "SUBN", "SHL", "ADDA", "DRW"])
    (hx : fieldX (encode i) ≠ 0xF) : ¬ mayWrite i 0xF := by
  cases i
  case ldm x =>
    rw [encode, fieldX_nibbles] at hx
    have hlt := x.isLt
    have hne : x.toNat ≠ 15 := fun h => hx (BitVec.eq_of_toNat_eq h)
    simp only [mayWrite, BitVec.reduceToNat]
    omega
  all_goals simp_all [mnemonic, mayWrite, encode, eq_comm]

theorem zero_or_one_of_ite {b : Byte} {c : Prop} [Decidable c] (h : b = if c then 1 else 0) : b = 0 ∨ b = 1 := by
  rw [h]
  split
  · exact .inr rfl
  · exact .inl rfl

theorem ofNat_zero_or_one {n : Nat} (h : n < 2) : BitVec.ofNat 8 n = 0 ∨ BitVec.ofNat 8 n = 1 := by
  interval_cases n
  · exact .inl rfl
  · exact .inr rfl

/-- Settles O48: an instruction that is none of the seven may write `VF` as its destination alone; what each of the seven
leaves there is a flag, after a shift of `VF` itself the shifted flag, which `SHR` makes 0. -/
theorem flagRegisterDiscipline : Obligations.FlagRegisterDiscipline := by
  intro i s t h
  refine ⟨fun hi hx => otherRegistersKept i s t 0xF h (not_mayWrite_flag hi hx), fun hi hx => ?_⟩
  cases i
  case add x y =>
    obtain ⟨hadd, -, -⟩ := arithmeticResults s x y
    exact zero_or_one_of_ite ((hadd.reg_eq h 0xF).trans (if_pos rfl))
  case sub x y =>
    obtain ⟨-, hsub, -⟩ := arithmeticResults s x y
    exact zero_or_one_of_ite ((hsub.reg_eq h 0xF).trans (if_pos rfl))
  case subn x y =>
    obtain ⟨-, -, hsubn⟩ := arithmeticResults s x y
    exact zero_or_one_of_ite ((hsubn.reg_eq h 0xF).trans (if_pos rfl))
  case shr x y =>
    obtain ⟨hshr, -⟩ := shiftResults s x y
    rw [hshr.reg_eq h]
    split
    case isTrue hx15 =>
      rw [if_pos hx15.symm]
      exact .inl rfl
    case isFalse =>
      rw [if_pos rfl]
      exact ofNat_zero_or_one (Nat.mod_lt _ (by decide))
  case shl x y =>
    have hx15 : 0xF ≠ x := fun h => hx ⟨rfl, by rw [encode, fieldX_nibbles, h]⟩
    obtain ⟨-, hshl⟩ := shiftResults s x y
    rw [hshl.reg_eq h, if_neg hx15, if_pos rfl]
    exact ofNat_zero_or_one (Nat.div_lt_of_lt_mul (s.reg x).isLt)
  case adda x =>
    obtain ⟨-, u, hu, -, hregs, -⟩ := indexAddResult s x
    cases hu.symm.trans h
    exact zero_or_one_of_ite ((hregs 0xF).trans (if_pos rfl))
  case drw x y n =>
    obtain ⟨u, hu, -, hflag, -⟩ := drawResult s x y n
    cases hu.symm.trans h
    rcases hflag with ⟨hone, -⟩ | ⟨hzero, -⟩
    · exact .inr hone
    · exact .inl hzero
  all_goals simp [mnemonic] at hi

/-! ### The net effect on `pc` -/

theorem exec_pc_kept {i : Instr} {s t : State} (h : exec i s = .next t)
    (hi : mnemonic i ∉ ["RET", "JP", "CALL", "SEI", "SNEI", "SE", "SNE", "JPV", "SKP", "SKNP", "WKEY"]) :
    t.pc = s.pc := by
  obtain ⟨-, -, -, -, -, -, -, -, -, -, -, hpc, -⟩ := stateWrittenOnlyByNamed i s t h
  exact not_not.mp (mt hpc hi)

section
variable (s : State) {c : Bool} {P : Prop} [Decidable P]

/-! A skip on the advanced state, seen from the fetch address (R80). -/

theorem State.skipIf_advance_pc (hc : c = true ↔ P) :
    (s.advance.skipIf c).pc = if P then s.pc + 4 else s.pc + 2 := by
  rw [State.skipIf_eq, State.advance_eq, State.setPc_pc, State.setPc_pc, BitVec.add_assoc]
  simp only [hc]
  rfl

theorem State.skipIf_advance_pc_not (hc : c = true ↔ ¬ P) :
    (s.advance.skipIf c).pc = if P then s.pc + 2 else s.pc + 4 := by
  rw [s.skipIf_advance_pc hc, ite_not]

end

/-- Settles O15: each control instruction's target; the others keep the advanced `pc`. -/
theorem netEffectOnPc : Obligations.NetEffectOnPc := by
  intro s i hw
  obtain ⟨t, h⟩ := exec_answers_next i s.advance
  refine ⟨t, (step_of_decode hw).trans h, ?_⟩
  cases i
  case jp nnn => cases h; exact zext16_eq_ofNat nnn
  case jpv nnn => cases h; exact zext16_add_zext16Byte nnn (s.reg 0)
  case call nnn =>
    by_cases hsp : s.sp.val < 16
    · rw [exec_call_of_push nnn (s.advance.push_of_lt _ hsp)] at h
      cases h
      exact (zext16_eq_ofNat nnn).trans (if_pos hsp).symm
    · have hfull : s.advance.sp.val = 16 := State.sp_eq_of_not_lt hsp
      rw [exec_call_full nnn hfull] at h
      cases h
      exact (if_neg hsp).symm
  case ret x =>
    by_cases hsp : 0 < s.sp.val
    · rw [exec_ret_of_pop x (s.advance.pop_of_pos hsp)] at h
      cases h
      rw [netPc, dif_pos hsp]
      rfl
    · have hempty : s.advance.sp.val = 0 := Nat.eq_zero_of_not_pos hsp
      rw [exec_ret_empty x hempty] at h
      cases h
      rw [netPc, dif_neg hsp]
      rfl
  case sei x nn => cases h; exact s.skipIf_advance_pc beq_iff_eq
  case snei x nn => cases h; exact s.skipIf_advance_pc_not bne_iff_ne
  case se x y n => cases h; exact s.skipIf_advance_pc beq_iff_eq
  case sne x y n => cases h; exact s.skipIf_advance_pc_not bne_iff_ne
  case skp x => cases h; exact s.skipIf_advance_pc (s.keyHeld_iff _)
  case sknp x => cases h; exact s.skipIf_advance_pc_not (s.not_keyHeld_iff _)
  case wkey x =>
    by_cases hkeys : s.keys = 0
    · have hidle : s.advance.keys = 0 := hkeys
      rw [exec_wkey_idle x hidle] at h
      cases h
      rw [netPc, if_pos hkeys]
      exact BitVec.add_sub_cancel s.pc 2
    · obtain ⟨k, hk⟩ := Option.ne_none_iff_exists'.mp (mt (leastKey_eq_none s.keys).mp hkeys)
      have hheld : leastKey s.advance.keys = some k := hk
      rw [exec_wkey_held x hheld] at h
      cases h
      rw [netPc, if_neg hkeys]
      rfl
  all_goals
    rw [exec_pc_kept h (by simp [mnemonic])]
    rfl

end Sys2Proof.Machine
end

section
/-! What the step does not read (spec/10_state.md section 4): a state with some of its seldom read fields mapped steps to the
next state with those fields mapped. Each noninterference statement is this for a map of its own. -/
namespace Sys2Proof.Machine

/-! ### A map of the fields few instructions read -/

/-- A function for each field that few instructions read. -/
structure FieldMap where
  stack : Vector Word 16 → Vector Word 16 := id
  DT : Byte → Byte := id
  ST : Byte → Byte := id
  dirty : Bool → Bool := id
  keys : Word → Word := id

/-- The state with each of the fields mapped. -/
def FieldMap.apply (m : FieldMap) (s : State) : State :=
  { s with stack := m.stack s.stack, DT := m.DT s.DT, ST := m.ST s.ST, dirty := m.dirty s.dirty, keys := m.keys s.keys }

/-- The map leaves alone what `i` reads or overwrites, and respects the inversion of `dirty` if `i` inverts it. -/
structure FieldMap.UnseenBy (m : FieldMap) (i : Instr) : Prop where
  stack : mnemonic i ∈ ["CALL", "RET"] → m.stack = id
  DT : mnemonic i ∈ ["GDT", "SDT"] → m.DT = id
  ST : mnemonic i ∈ ["SST"] → m.ST = id
  dirty : mnemonic i ∈ ["CLS", "DRW"] → ∀ b, m.dirty (!b) = !m.dirty b
  keys : mnemonic i ∈ ["SKP", "SKNP", "WKEY"] → m.keys = id

/-! ### The map and the operations -/

section
variable (m : FieldMap) (s : State)

theorem FieldMap.skipIf_apply (c : Bool) : (m.apply s).skipIf c = m.apply (s.skipIf c) := by
  cases c <;> rfl

theorem FieldMap.storeBytes_apply (a : Nat) (vs : List Byte) :
    (m.apply s).storeBytes a vs = m.apply (s.storeBytes a vs) := by
  induction vs generalizing s a with
  | nil => rfl
  | cons v vs ih => exact ih (s.writeByte a v) (a + 1)

theorem FieldMap.loadRegs_apply (a n : Nat) : (m.apply s).loadRegs a n = m.apply (s.loadRegs a n) :=
  List.foldl_hom m.apply fun _ _ => rfl

theorem FieldMap.toggleDirty_apply (h : ∀ b, m.dirty (!b) = !m.dirty b) :
    (m.apply s).toggleDirty = m.apply s.toggleDirty := by
  simp only [FieldMap.apply, State.toggleDirty, h]

theorem FieldMap.push_apply (h : m.stack = id) (v : Word) : (m.apply s).push v = (s.push v).map m.apply := by
  by_cases hsp : s.sp.val < 16
  · rw [s.push_of_lt v hsp, State.push_of_lt (m.apply s) v hsp]
    simp only [FieldMap.apply, h, id_eq, Option.map_some]
  · rw [s.push_full v hsp, State.push_full (m.apply s) v hsp]
    rfl

theorem FieldMap.pop_apply (h : m.stack = id) : (m.apply s).pop = s.pop.map (Prod.map id m.apply) := by
  by_cases hsp : 0 < s.sp.val
  · rw [s.pop_of_pos hsp, State.pop_of_pos (m.apply s) hsp]
    simp only [FieldMap.apply, h, id_eq, Option.map_some, Prod.map_apply]
  · rw [s.pop_empty hsp, State.pop_empty (m.apply s) hsp]
    rfl

theorem FieldMap.keys_apply (h : m.keys = id) : (m.apply s).keys = s.keys := congrFun h s.keys

theorem FieldMap.keyHeld_apply (h : m.keys = id) (v : Byte) : (m.apply s).keyHeld v = s.keyHeld v := by
  rw [State.keyHeld, State.keyHeld, m.keys_apply s h]

theorem FieldMap.setDT_apply (h : m.DT = id) (v : Byte) : (m.apply s).setDT v = m.apply (s.setDT v) := by
  simp only [FieldMap.apply, State.setDT, h, id_eq]

theorem FieldMap.setST_apply (h : m.ST = id) (v : Byte) : (m.apply s).setST v = m.apply (s.setST v) := by
  simp only [FieldMap.apply, State.setST, h, id_eq]

end

/-! ### The map and a step -/

/-- An instruction that does not see the map takes mapped states to mapped states. -/
theorem exec_apply {m : FieldMap} {i : Instr} {s t : State} (hm : m.UnseenBy i) (h : exec i s = .next t) :
    exec i (m.apply s) = .next (m.apply t) := by
  obtain ⟨hstack, hDT, hST, hdirty, hkeys⟩ := hm
  cases i
  case call nnn =>
    by_cases hsp : s.sp.val < 16
    · have hpush := s.push_of_lt s.pc hsp
      have hpush' := m.push_apply s (hstack (.head _)) s.pc
      rw [hpush, Option.map_some] at hpush'
      rw [exec_call_of_push nnn hpush] at h
      cases h
      exact exec_call_of_push nnn hpush'
    · have hfull := State.sp_eq_of_not_lt hsp
      rw [exec_call_full nnn hfull] at h
      cases h
      exact exec_call_full nnn hfull
  case ret x =>
    by_cases hsp : 0 < s.sp.val
    · have hpop := s.pop_of_pos hsp
      have hpop' := m.pop_apply s (hstack (.tail _ (.head _)))
      rw [hpop, Option.map_some] at hpop'
      rw [exec_ret_of_pop x hpop] at h
      cases h
      exact exec_ret_of_pop x hpop'
    · have hempty := Nat.eq_zero_of_not_pos hsp
      rw [exec_ret_empty x hempty] at h
      cases h
      exact exec_ret_empty x hempty
  case cls x =>
    cases h
    rw [← m.toggleDirty_apply _ (hdirty (.head _))]
    rfl
  case drw x y n =>
    cases h
    rw [← m.toggleDirty_apply _ (hdirty (.tail _ (.head _)))]
    rfl
  case gdt x =>
    have hread : (m.apply s).DT = s.DT := congrFun (hDT (.head _)) s.DT
    cases h
    rw [exec_gdt, hread]
    rfl
  case sdt x => cases h; exact congrArg Host.Outcome.next (m.setDT_apply s (hDT (.tail _ (.head _))) (s.reg x))
  case sst x => cases h; exact congrArg Host.Outcome.next (m.setST_apply s (hST (.head _)) (s.reg x))
  case skp x =>
    cases h
    rw [exec_skp, m.keyHeld_apply s (hkeys (.head _)), m.skipIf_apply]
    rfl
  case sknp x =>
    cases h
    rw [exec_sknp, m.keyHeld_apply s (hkeys (.tail _ (.head _))), m.skipIf_apply]
    rfl
  case wkey x =>
    have hread := m.keys_apply s (hkeys (.tail _ (.tail _ (.head _))))
    simp only [exec, execWkey, hread] at h ⊢
    split at h <;> cases h <;> rfl
  case sei x nn => cases h; exact congrArg _ (m.skipIf_apply s _)
  case snei x nn => cases h; exact congrArg _ (m.skipIf_apply s _)
  case se x y n => cases h; exact congrArg _ (m.skipIf_apply s _)
  case sne x y n => cases h; exact congrArg _ (m.skipIf_apply s _)
  case bcd x => cases h; exact congrArg _ (m.storeBytes_apply s _ _)
  case stm x => cases h; exact congrArg _ (m.storeBytes_apply s _ _)
  case ldm x => cases h; exact congrArg _ (m.loadRegs_apply s _ _)
  all_goals cases h; rfl

/-- A step that does not see the map takes mapped states to mapped states. -/
theorem step_apply {m : FieldMap} {s t : State} (hm : ∀ i, decodeWord s.fetchWord = .ok i → m.UnseenBy i)
    (h : step s = .next t) : step (m.apply s) = .next (m.apply t) := by
  have hfetch : (m.apply s).fetchWord = s.fetchWord := rfl
  rcases step_cases h with ⟨hw, rfl⟩ | ⟨i, hi, -, hexec⟩
  · exact step_of_unknown (hfetch ▸ hw)
  · exact (step_of_decode (hfetch ▸ hi)).trans (exec_apply (hm i hi) hexec)

/-! ### The timers -/

/-- A tick counts both timers down (R136). -/
def FieldMap.tick : FieldMap where
  DT := countDown
  ST := countDown

theorem FieldMap.tick_unseenBy {i : Instr} (hi : mnemonic i ∉ ["GDT", "SDT", "SST"]) : FieldMap.tick.UnseenBy i where
  stack _ := rfl
  DT hmem := absurd (List.mem_append_left ["SST"] hmem) hi
  ST hmem := absurd (List.mem_append_right ["GDT", "SDT"] hmem) hi
  dirty _ _ := rfl
  keys _ := rfl

/-- Settles O44: a tick maps the two timers, which only the timer instructions see. -/
theorem tickCommutesWithOtherSteps : Obligations.TickCommutesWithOtherSteps := fun _ _ hi h =>
  step_apply (fun i hw => FieldMap.tick_unseenBy (hi i hw)) h

/-- The sound timer at another value. -/
def FieldMap.withST (v : Byte) : FieldMap where
  ST _ := v

theorem FieldMap.withST_unseenBy (v : Byte) {i : Instr} (hi : mnemonic i ≠ "SST") : (FieldMap.withST v).UnseenBy i where
  stack _ := rfl
  DT _ := rfl
  ST hmem := absurd (List.mem_singleton.mp hmem) hi
  dirty _ _ := rfl
  keys _ := rfl

theorem eq_sst_of_mnemonic {i : Instr} (hi : mnemonic i = "SST") : ∃ x, i = .sst x := by
  cases i
  case sst x => exact ⟨x, rfl⟩
  all_goals simp [mnemonic] at hi

/-- Settles O49: only `SST` sees the sound timer, and it overwrites it. -/
theorem soundTimerIsNeverRead : Obligations.SoundTimerIsNeverRead := by
  intro s t v h
  by_cases hsst : ∃ x, decodeWord s.fetchWord = .ok (.sst x)
  · obtain ⟨x, hw⟩ := hsst
    have hw' : decodeWord ((FieldMap.withST v).apply s).fetchWord = .ok (.sst x) := hw
    cases h.symm.trans (step_of_decode hw)
    exact ⟨_, step_of_decode hw', rfl⟩
  · have hunseen : ∀ i, decodeWord s.fetchWord = .ok i → (FieldMap.withST v).UnseenBy i := by
      refine fun i hw => FieldMap.withST_unseenBy v fun hi => ?_
      obtain ⟨x, rfl⟩ := eq_sst_of_mnemonic hi
      exact hsst ⟨x, hw⟩
    exact ⟨_, step_apply hunseen h, rfl⟩

/-! ### The dirty flag -/

/-- The dirty flag inverted if `c` holds. -/
def FieldMap.flipDirty (c : Bool) : FieldMap where
  dirty b := b ^^ c

theorem FieldMap.flipDirty_unseenBy (c : Bool) (i : Instr) : (FieldMap.flipDirty c).UnseenBy i where
  stack _ := rfl
  DT _ := rfl
  ST _ := rfl
  dirty _ b := Bool.not_xor b c
  keys _ := rfl

/-- Settles O50: the other flag is the flag inverted or kept, which no instruction sees. -/
theorem dirtyIsNeverRead : Obligations.DirtyIsNeverRead := by
  intro s t b h
  have hflip := step_apply (fun i _ => FieldMap.flipDirty_unseenBy (b ^^ s.dirty) i) h
  have hs : (FieldMap.flipDirty (b ^^ s.dirty)).apply s = { s with dirty := b } := by
    simp [FieldMap.apply, FieldMap.flipDirty, Bool.xor_left_comm]
  have ht : (FieldMap.flipDirty (b ^^ s.dirty)).apply t = { t with dirty := b ^^ (t.dirty ^^ s.dirty) } := by
    simp [FieldMap.apply, FieldMap.flipDirty, Bool.xor_left_comm]
  rwa [hs, ht] at hflip

/-! ### The key snapshot -/

/-- Another key snapshot. -/
def FieldMap.withKeys (k : Word) : FieldMap where
  keys _ := k

theorem FieldMap.withKeys_unseenBy (k : Word) {i : Instr} (hi : mnemonic i ∉ ["SKP", "SKNP", "WKEY"]) :
    (FieldMap.withKeys k).UnseenBy i where
  stack _ := rfl
  DT _ := rfl
  ST _ := rfl
  dirty _ _ := rfl
  keys hmem := absurd hmem hi

theorem exec_keys {i : Instr} {s t : State} (h : exec i s = .next t) : t.keys = s.keys := by
  obtain ⟨-, -, -, -, -, -, -, -, -, -, -, -, hkeys⟩ := stateWrittenOnlyByNamed i s t h
  exact hkeys

/-- Settles O51: the three instructions apart, no instruction sees the snapshot; none at all writes it. -/
theorem keysReadOnlyByThree : Obligations.KeysReadOnlyByThree := by
  refine ⟨fun s t k hi h => step_apply (fun i hw => FieldMap.withKeys_unseenBy k (hi i hw)) h, fun s t h => ?_⟩
  rcases step_cases h with ⟨-, rfl⟩ | ⟨i, -, -, hexec⟩
  · rfl
  · rw [exec_keys hexec]
    rfl

/-! ### The stack slots at `sp` and above -/

/-- Another call stack. -/
def FieldMap.withStack (st : Vector Word 16) : FieldMap where
  stack _ := st

theorem FieldMap.withStack_unseenBy (st : Vector Word 16) {i : Instr} (hi : mnemonic i ∉ ["CALL", "RET"]) :
    (FieldMap.withStack st).UnseenBy i where
  stack hmem := absurd hmem hi
  DT _ := rfl
  ST _ := rfl
  dirty _ _ := rfl
  keys _ := rfl

theorem eq_call_or_ret_of_mnemonic {i : Instr} (hi : mnemonic i ∈ ["CALL", "RET"]) :
    (∃ nnn, i = .call nnn) ∨ ∃ x, i = .ret x := by
  cases i
  case call nnn => exact .inl ⟨nnn, rfl⟩
  case ret x => exact .inr ⟨x, rfl⟩
  all_goals simp [mnemonic] at hi

/-- The states agree but for the stack, and there on the slots below `sp`. -/
def AgreeBelowSp (s t : State) : Prop :=
  s = { t with stack := s.stack } ∧ ∀ k (hk : k < 16), k < t.sp.val → s.stack[k] = t.stack[k]

section
variable {s t : State} {st : Vector Word 16} (hst : ∀ k (hk : k < 16), k < s.sp.val → st[k] = s.stack[k])
include hst

/-- A `CALL` writes the same value into the same slot of both stacks. -/
theorem call_withStack {nnn : Addr12} (h : exec (.call nnn) s = .next t) :
    ∃ t', exec (.call nnn) ((FieldMap.withStack st).apply s) = .next t' ∧ AgreeBelowSp t' t := by
  by_cases hsp : s.sp.val < 16
  · have hpush := s.push_of_lt s.pc hsp
    have hpush' := State.push_of_lt ((FieldMap.withStack st).apply s) s.pc hsp
    obtain ⟨-, -, hslots, -⟩ := State.push_cases hpush
    obtain ⟨-, -, hslots', -⟩ := State.push_cases hpush'
    rw [exec_call_of_push nnn hpush] at h
    cases h
    refine ⟨_, exec_call_of_push nnn hpush', rfl, fun k hk hlt => ?_⟩
    refine (hslots' k hk).trans (Eq.trans ?_ (hslots k hk).symm)
    split
    case isTrue heq => exact (if_pos heq).symm
    case isFalse hne => exact (hst k hk (Nat.lt_of_le_of_ne (Nat.le_of_lt_succ hlt) hne)).trans (if_neg hne).symm
  · have hfull := State.sp_eq_of_not_lt hsp
    rw [exec_call_full nnn hfull] at h
    cases h
    exact ⟨_, exec_call_full nnn hfull, rfl, hst⟩

/-- A `RET` reads the slot below `sp`, on which the stacks agree. -/
theorem ret_withStack {x : Nibble} (h : exec (.ret x) s = .next t) :
    ∃ t', exec (.ret x) ((FieldMap.withStack st).apply s) = .next t' ∧ AgreeBelowSp t' t := by
  by_cases hsp : 0 < s.sp.val
  · have hread := hst (s.sp.val - 1) (by omega) (Nat.sub_one_lt_of_lt hsp)
    rw [exec_ret_of_pop x (s.pop_of_pos hsp)] at h
    cases h
    refine ⟨_, exec_ret_of_pop x (State.pop_of_pos ((FieldMap.withStack st).apply s) hsp), ?_, fun k hk hlt => ?_⟩
    · exact congrArg (State.setPc _) hread
    · exact hst k hk (Nat.lt_of_lt_of_le hlt (Nat.sub_le _ _))
  · have hempty := Nat.eq_zero_of_not_pos hsp
    rw [exec_ret_empty x hempty] at h
    cases h
    exact ⟨_, exec_ret_empty x hempty, rfl, hst⟩

/-- Every instruction keeps the agreement below `sp`; those that do not touch the stack, by the frame. -/
theorem exec_withStack {i : Instr} (h : exec i s = .next t) :
    ∃ t', exec i ((FieldMap.withStack st).apply s) = .next t' ∧ AgreeBelowSp t' t := by
  by_cases hi : mnemonic i ∈ ["CALL", "RET"]
  · rcases eq_call_or_ret_of_mnemonic hi with ⟨nnn, rfl⟩ | ⟨x, rfl⟩
    · exact call_withStack hst h
    · exact ret_withStack hst h
  · obtain ⟨-, -, hstack, hsp, -⟩ := stateWrittenOnlyByNamed i s t h
    have hstack' : t.stack = s.stack := not_not.mp (mt hstack fun hmem => hi (List.mem_append_left ["RET"] hmem))
    have hsp' : t.sp = s.sp := not_not.mp (mt hsp hi)
    refine ⟨_, exec_apply (FieldMap.withStack_unseenBy st hi) h, rfl, fun k hk hlt => ?_⟩
    simp only [hstack']
    exact hst k hk (hsp' ▸ hlt)

end

/-- Settles O52: a report reads no slot, and every instruction keeps the agreement below `sp`. -/
theorem staleStackSlotsAreNeverRead : Obligations.StaleStackSlotsAreNeverRead := by
  intro s t st hst h
  have hfetch : ((FieldMap.withStack st).apply s).fetchWord = s.fetchWord := rfl
  rcases step_cases h with ⟨hw, rfl⟩ | ⟨i, hi, -, hexec⟩
  · exact ⟨_, step_of_unknown (hfetch ▸ hw), rfl, hst⟩
  · have hadvanced : ∀ k (hk : k < 16), k < s.advance.sp.val → st[k] = s.advance.stack[k] := hst
    obtain ⟨t', ht', hagree⟩ := exec_withStack hadvanced hexec
    exact ⟨t', (step_of_decode (hfetch ▸ hi)).trans ht', hagree⟩

end Sys2Proof.Machine
end

section
/-! Reset, the host's transactions (spec/60_exceptions.md section 4), and the invariant along every schedule of them. -/
namespace Sys2Proof.Machine

/-! ### Reset and load (spec/70_reset_and_hazards.md section 1) -/

/-- After reset memory holds the font, and 0 above it (R160, R161). -/
theorem State.reset_readByte {a : Nat} (ha : a < 4096) :
    State.reset.readByte a = if h : a < font.length then font[a] else 0 := by
  change font.getD (a % 4096) 0 = _
  rw [Nat.mod_eq_of_lt ha]
  split
  case isTrue h => exact (List.getElem_eq_getD 0).symm
  case isFalse h => exact List.getD_eq_default _ _ (Nat.not_lt.mp h)

/-- Settles O53: the registers and the cells one by one, the other fields as `State.reset` lists them. -/
theorem resetState : Obligations.ResetState :=
  ⟨State.reg_reset, rfl, rfl, rfl, fun _ => Vector.getElem_replicate, rfl, rfl, Framebuffer.cell_clear, rfl, rfl, rfl, rfl,
    rfl, fun _ => State.reset_readByte⟩

theorem transact_reset_fits {p : List Byte} (s : State) (h : p.length ≤ Config.maxProgram) :
    transact (.reset p) s = .next (loaded p s) := congrArg Host.Outcome.next (if_pos h)

theorem transact_reset_tooLong {p : List Byte} (s : State) (h : ¬ p.length ≤ Config.maxProgram) :
    transact (.reset p) s = .next s := congrArg Host.Outcome.next (if_neg h)

/-- Settles O54: the loaded bytes are those stored over the reset contents; a program that does not fit is refused. -/
theorem programLoad : Obligations.ProgramLoad := by
  refine ⟨fun s p hp => ?fits, fun s p hp => ?tooLong⟩
  case fits =>
    have hlen : p.length ≤ Config.memSize := Nat.le_trans hp (by decide)
    refine ⟨loaded p s, transact_reset_fits s hp, fun k hk => ?program, fun a ha hout => ?others, ?frame⟩
    case program => exact State.reset.readByte_storeBytes_self 0x200 p State.reset_mem_wf hlen k hk
    case others =>
      refine State.reset.readByte_storeBytes_other 0x200 a p State.reset_mem_wf fun k hk => ?_
      simp only [Config.memSize]
      omega
    case frame =>
      rw [loaded, State.storeBytes_eq]
  case tooLong =>
    have hnot : ¬ p.length ≤ Config.maxProgram := Nat.not_le.mpr hp
    exact ⟨transact_reset_tooLong s hnot, if_neg hnot⟩

/-- Settles O55: each of the three, read off its meaning. -/
theorem hostReadsAndKeys : Obligations.HostReadsAndKeys := fun _ _ => ⟨rfl, rfl, rfl, rfl, rfl⟩

/-! ### The invariant, instruction by instruction -/

/-- Only `BCD` and `STM` write memory, and a store keeps the canonical form. -/
theorem exec_mem_wf {i : Instr} {s t : State} (hwf : s.mem.wf) (h : exec i s = .next t) : t.mem.wf := by
  by_cases hsame : t.mem = s.mem
  · rwa [hsame]
  · obtain ⟨-, -, -, -, -, -, hmem, -⟩ := stateWrittenOnlyByNamed i s t h
    have hstore := hmem hsame
    cases i
    case bcd x => cases h; exact s.storeBytes_wf _ _ hwf
    case stm x => cases h; exact s.storeBytes_wf _ _ hwf
    all_goals simp [mnemonic] at hstore

/-- Only `LDA`, `ADDA` and `FNT` write `I`, each a value of 12 bits (spec/10_state.md R12). -/
theorem exec_I_le {i : Instr} {s t : State} (hI : s.I.toNat ≤ 0xFFF) (h : exec i s = .next t) : t.I.toNat ≤ 0xFFF := by
  by_cases hsame : t.I = s.I
  · rwa [hsame]
  · obtain ⟨-, hwrite, -⟩ := stateWrittenOnlyByNamed i s t h
    have hindex := hwrite hsame
    cases i
    case lda nnn =>
      have hlt := nnn.isLt
      cases h
      rw [State.setI_I, zext16, BitVec.toNat_setWidth]
      omega
    case adda x =>
      obtain ⟨-, u, hu, hindex', -⟩ := indexAddResult s x
      cases hu.symm.trans h
      omega
    case fnt x =>
      have hlt := (s.reg x).isLt
      cases h
      rw [State.setI_I, BitVec.toNat_ofNat]
      exact (Nat.mod_le _ _).trans (by omega)
    all_goals simp [mnemonic] at hindex

theorem State.Inv.raiseDiag {s : State} {kind : DiagKind} {w : Word} (hs : s.Inv)
    (hfits : Diag.fits ⟨kind, w, s.pc⟩) : (s.raiseDiag kind w).Inv := by
  obtain ⟨hmem, hI, hdiags⟩ := hs
  refine ⟨hmem, hI, ?_⟩
  rw [State.raiseDiag_diags, List.forall_mem_append, List.forall_mem_singleton]
  exact ⟨hdiags, hfits⟩

/-- Every instruction keeps the invariant: one that reports does nothing else, and reports its own word. -/
theorem exec_keeps_inv {i : Instr} {s t : State} (hs : s.Inv) (h : exec i s = .next t) : t.Inv := by
  rcases exec_reports h with hsame | ⟨nnn, rfl, -, rfl⟩ | ⟨x, rfl, -, rfl⟩
  · obtain ⟨hmem, hI, hdiags⟩ := hs
    exact ⟨exec_mem_wf hmem h, exec_I_le hI h, hsame ▸ hdiags⟩
  · exact hs.raiseDiag ⟨nnn, decodeOfEncode (.call nnn)⟩
  · exact hs.raiseDiag ⟨x, decodeOfEncode (.ret x)⟩

/-! ### The invariant along steps and schedules -/

/-- Settles O57: the advance keeps the invariant, and so does the report of an unknown word or the instruction run. -/
theorem stepKeepsInv : Obligations.StepKeepsInv := by
  intro s t hs h
  have hadvanced : s.advance.Inv := hs
  rcases step_cases h with ⟨hw, rfl⟩ | ⟨i, -, -, hexec⟩
  · exact hadvanced.raiseDiag hw
  · exact exec_keeps_inv hadvanced hexec

/-- Settles O56: nothing listed, `I` = 0, no report. -/
theorem resetMeetsInv : Obligations.ResetMeetsInv :=
  ⟨State.reset_mem_wf, Nat.zero_le _, fun _ hd => absurd hd List.not_mem_nil⟩

theorem loaded_inv {s : State} (p : List Byte) (hs : s.Inv) : (loaded p s).Inv := by
  obtain ⟨-, -, hdiags⟩ := hs
  refine ⟨State.reset.storeBytes_wf _ p State.reset_mem_wf, ?_, hdiags⟩
  rw [loaded, State.storeBytes_eq]
  exact Nat.zero_le _

/-- Every transaction answers, and keeps the invariant. -/
theorem transact_answers_and_keeps_inv (x : Transaction) {s : State} (hs : s.Inv) :
    ∃ t, transact x s = .next t ∧ t.Inv := by
  cases x with
  | reset p =>
    by_cases hp : p.length ≤ Config.maxProgram
    · exact ⟨_, transact_reset_fits s hp, loaded_inv p hs⟩
    · exact ⟨s, transact_reset_tooLong s hp, hs⟩
  | step =>
    obtain ⟨t, ht⟩ := step_answers_next s
    exact ⟨t, ht, stepKeepsInv s t hs ht⟩
  | timerTick => exact ⟨_, rfl, hs⟩
  | setKeys k => exact ⟨_, rfl, hs⟩
  | readFrame => exact ⟨s, rfl, hs⟩
  | observe => exact ⟨s, rfl, hs⟩

/-- Settles O58: by induction on the schedule, one transaction at a time. -/
theorem schedulesAnswerAndKeepInv : Obligations.SchedulesAnswerAndKeepInv := by
  intro xs
  induction xs with
  | nil => exact fun s hs => ⟨s, rfl, hs⟩
  | cons x xs ih =>
    intro s hs
    obtain ⟨t, ht, hinv⟩ := transact_answers_and_keeps_inv x hs
    rw [runSchedule_cons xs ht]
    exact ih t hinv

end Sys2Proof.Machine
end
